-- ==== Sys2Proof/Word.lean ====
section
/-! DEFINITION. The widths of the core's values (00_scope.md R7, 30_encoding.md R91, R99). -/

namespace Sys2Proof

/-- Every value the core stores, receives or emits on the wire (R7). -/
abbrev Byte := BitVec 8

/-- The `pos` field of a host request, `POS_W` = 16 bits, read as an unsigned natural (R6, R93). -/
abbrev Pos := BitVec 16

/-- A 4-bit field: `op` and `rsv` of a request word (R91), and a decoder state's code (R100). -/
abbrev Nibble := BitVec 4

/-- A host request word (R91, R102). -/
abbrev ReqWord := BitVec 32

/-- A decoder row's key: the state's code in bits [11:8], the received byte in bits [7:0] (R99). -/
abbrev Key := BitVec 12

end Sys2Proof
end

