-- ==== Sys2Proof/Config.lean ====
section
/-! DEFINITION. The protocol's constants, the parameters of an instance of the core, and the free values. -/

namespace Sys2Proof

/-! ## Wire constants (30_encoding.md R81, R82; named as 93_implementation_defined.md I16 names them)

UNVERIFIED: the requester calls the source's literals unaudited (I16); log 14. -/

/-- The preamble byte (R81). -/
abbrev Config.PRE : Byte := 0xFF#8

/-- Start of transmission, the third byte of every frame (R81). -/
abbrev Config.STX : Byte := 0x02#8

/-- End of transmission, the last byte of every frame (R81). -/
abbrev Config.ETX : Byte := 0x03#8

/-- The escape byte, inbound only (R81, R87, R88). -/
abbrev Config.ESC : Byte := 0x10#8

/-- `'A'`, the base of the address byte (R82, R83), as a natural: R84's arithmetic is in the integers. -/
abbrev Config.ADDR_BASE : Nat := 0x41

/-- `'R'`, the response command, outbound (R82). -/
abbrev Config.CMD_RESP : Byte := 0x52#8

/-- `'T'`, the set-data command, inbound (R82). -/
abbrev Config.CMD_SET : Byte := 0x54#8

/-- `'P'`, the poll command, inbound. PRESUMED: the source names `'P'` and gives no byte value (R82, N3, G1); log 13. -/
abbrev Config.CMD_POLL : Byte := 0x50#8

/-! ## Parameters (00_scope.md R6, 70_reset_and_hazards.md R264) -/

/-- The greatest legal node address: `0x41 + 190 = 0xFF` (R25, D5). -/
abbrev Config.MAX_ADDRESS : Nat := 190

/-- The greatest legal buffer depth (R6, R264, D4). -/
abbrev Config.MAX_DEPTH : Nat := 4096

/-- The parameters of one instance of the core, fixed for it (R6). `POS_W` is the width of `Pos`; `TE_SETTLE` is below. -/
structure Params where
  /-- RX_BYTES, the depth of RB. -/
  rxBytes : Nat
  /-- TX_BYTES, the depth of TB. -/
  txBytes : Nat
  /-- NODE_ADDRESS_CFG, the node address after hardware reset. -/
  nodeAddressCfg : Byte
  deriving DecidableEq, Repr

/-- The elaboration constraints an instance must meet (R264). -/
abbrev Params.Valid (p : Params) : Prop :=
  p.nodeAddressCfg.toNat ≤ Config.MAX_ADDRESS ∧ p.rxBytes ≤ Config.MAX_DEPTH ∧ p.txBytes ≤ Config.MAX_DEPTH

/-- The instance that `State.reset` is a reset of: the source's own §8 scenario (95_test_vectors.md X1).
DESIGN CHOICE, log 1: statements quantify over `Params`; this one only makes a run from reset concrete. -/
abbrev Config.resetParams : Params := { rxBytes := 6, txBytes := 3, nodeAddressCfg := 1#8 }

/-- TE_SETTLE, nominally 10 ms, a parameter without a fixed value (R6, R154, I3, D23).
There is no clock: no definition of the model reads it (R154, R285); log 15. -/
opaque Config.teSettle : Nat

/-! ## Free values: the environment's draws (00_scope.md R9) -/

/-- What the sink does with one encoder run's write (42_encoder.md R156). -/
inductive SinkOutcome where
  /-- The sink accepts the whole frame. -/
  | ok
  /-- The write fails after `k` bytes reached the sink; a `k` above the frame's length stands for that length (log 5). -/
  | fail (k : Nat)
  deriving DecidableEq, Repr, Inhabited

/-- FREE VALUE: how many bytes the `n`-th PROCESS finds available, where the environment's list of choices
in State has run out (R214, R215, I9, D15); log 4. -/
opaque Config.freeTake : Nat → Nat

/-- FREE VALUE: the outcome of the `n`-th sink write, where the environment's list of choices in State
has run out (R156, I10, D13); log 5. -/
opaque Config.freeSink : Nat → SinkOutcome

end Sys2Proof
end

