-- ==== Sys2Proof/Syntax.lean ====
section
/-! DEFINITION. The decoder's states, and the instruction set: one constructor per row of spec/opcode_table.json. -/

namespace Sys2Proof

/-- DecoderState: a closed enumeration of 11 states (10_state.md R23, 30_encoding.md R101). -/
inductive DecState where
  | preamble1 | preamble2 | preamble3 | address | decodeCommand | ignoreCommand
  | decodeData | decodeEscData | ignoreData | ignoreEscData | postambleOther
  deriving DecidableEq, Repr

/-- The opcode table's 32 rows, in its order. A host operation carries its word's `pos` and `val` fields,
those it ignores too (R93), so that no bit of a word is lost. A decoder row carries the received byte where
its mask leaves the byte open. -/
inductive Instr where
  /-- R210. `pos` is ignored. -/
  | init (pos : Pos) (val : Byte)
  /-- R212. `pos` is ignored. -/
  | setAddress (pos : Pos) (val : Byte)
  /-- R214. Both fields are ignored. -/
  | process (pos : Pos) (val : Byte)
  /-- R130. `val` is ignored. -/
  | getBit (pos : Pos) (val : Byte)
  /-- R132. `val` is ignored. -/
  | getByte (pos : Pos) (val : Byte)
  /-- R134. -/
  | setBit (pos : Pos) (val : Byte)
  /-- R136. -/
  | setByte (pos : Pos) (val : Byte)
  /-- R158. Both fields are ignored. -/
  | transmit (pos : Pos) (val : Byte)
  /-- R218: a word that spells no operation. -/
  | illegal (word : ReqWord)
  /-- R171: Preamble1, 0xFF. -/
  | decP1Pre
  /-- R172: Preamble1, any other byte. -/
  | decP1Other (b : Byte)
  /-- R173: Preamble2, 0xFF. -/
  | decP2Pre
  /-- R174: Preamble2, any other byte. -/
  | decP2Other (b : Byte)
  /-- R175: Preamble3, STX. -/
  | decP3Stx
  /-- R176: Preamble3, any other byte. -/
  | decP3Other (b : Byte)
  /-- R177: Address, the byte of this node. -/
  | decAddrMatch (b : Byte)
  /-- R178: Address, any other byte. -/
  | decAddrOther (b : Byte)
  /-- R179: DecodeCommand, `'T'`. -/
  | decCmdSet
  /-- R180: DecodeCommand, `'P'`. -/
  | decCmdPoll
  /-- R181: DecodeCommand, any other byte. -/
  | decCmdOther (b : Byte)
  /-- R182: IgnoreCommand, any byte. -/
  | decIgncmdAny (b : Byte)
  /-- R183: DecodeData, escape. -/
  | decDataEsc
  /-- R184: DecodeData, ETX. -/
  | decDataEtx
  /-- R185: DecodeData, any other byte, room left. -/
  | decDataStore (b : Byte)
  /-- R186: DecodeData, any other byte, buffer full. -/
  | decDataFull (b : Byte)
  /-- R187: DecodeEscData, any byte, room left. -/
  | decEscStore (b : Byte)
  /-- R188: DecodeEscData, any byte, buffer full. -/
  | decEscFull (b : Byte)
  /-- R189: IgnoreData, escape. -/
  | decIgnEsc
  /-- R190: IgnoreData, ETX. -/
  | decIgnEtx
  /-- R191: IgnoreData, any other byte. -/
  | decIgnOther (b : Byte)
  /-- R192: IgnoreEscData, any byte. -/
  | decIgnescAny (b : Byte)
  /-- R193: PostambleOther, any byte. -/
  | decPostAny (b : Byte)
  deriving DecidableEq, Repr

/-- The row's mnemonic, as the opcode table spells it. -/
def Instr.mnemonic : Instr → String
  | .init _ _ => "INIT"
  | .setAddress _ _ => "SET_ADDRESS"
  | .process _ _ => "PROCESS"
  | .getBit _ _ => "GET_BIT"
  | .getByte _ _ => "GET_BYTE"
  | .setBit _ _ => "SET_BIT"
  | .setByte _ _ => "SET_BYTE"
  | .transmit _ _ => "TRANSMIT"
  | .illegal _ => "ILLEGAL"
  | .decP1Pre => "DEC_P1_PRE"
  | .decP1Other _ => "DEC_P1_OTHER"
  | .decP2Pre => "DEC_P2_PRE"
  | .decP2Other _ => "DEC_P2_OTHER"
  | .decP3Stx => "DEC_P3_STX"
  | .decP3Other _ => "DEC_P3_OTHER"
  | .decAddrMatch _ => "DEC_ADDR_MATCH"
  | .decAddrOther _ => "DEC_ADDR_OTHER"
  | .decCmdSet => "DEC_CMD_SET"
  | .decCmdPoll => "DEC_CMD_POLL"
  | .decCmdOther _ => "DEC_CMD_OTHER"
  | .decIgncmdAny _ => "DEC_IGNCMD_ANY"
  | .decDataEsc => "DEC_DATA_ESC"
  | .decDataEtx => "DEC_DATA_ETX"
  | .decDataStore _ => "DEC_DATA_STORE"
  | .decDataFull _ => "DEC_DATA_FULL"
  | .decEscStore _ => "DEC_ESC_STORE"
  | .decEscFull _ => "DEC_ESC_FULL"
  | .decIgnEsc => "DEC_IGN_ESC"
  | .decIgnEtx => "DEC_IGN_ETX"
  | .decIgnOther _ => "DEC_IGN_OTHER"
  | .decIgnescAny _ => "DEC_IGNESC_ANY"
  | .decPostAny _ => "DEC_POST_ANY"

end Sys2Proof
end

