-- ==== Sys2Proof/WellFormed.lean ====
section
/-! DEFINITION. Which terms of Instr the encoding can spell (30_encoding.md R96, R98, R99). -/

namespace Sys2Proof

/-- R96: the words that spell no operation, `op` = 0x0 or 0x9 to 0xF, or `rsv` not 0. -/
abbrev isIllegalWord (w : ReqWord) : Prop :=
  w.extractLsb' 24 4 ≠ 0#4 ∨ w.extractLsb' 28 4 = 0#4 ∨ 9 ≤ (w.extractLsb' 28 4).toNat

/-- A term is well formed when some word or key, with some `addr` and `cur`, is its encoding: the byte of an
"any other b" row is in its class (R98), the byte of DEC_ADDR_MATCH is some legal node's address byte (R83),
and ILLEGAL's word spells no operation (R96). A value an operation refuses (INIT 191, SET_BIT with value 2)
is well formed: the word is that operation's (R96). -/
def Instr.wellFormed : Instr → Bool
  | .init _ _ | .setAddress _ _ | .process _ _ | .getBit _ _ | .getByte _ _ | .setBit _ _ | .setByte _ _
  | .transmit _ _ => true
  | .illegal w => decide (isIllegalWord w)
  | .decP1Pre | .decP2Pre | .decP3Stx | .decCmdSet | .decCmdPoll | .decDataEsc | .decDataEtx | .decIgnEsc
  | .decIgnEtx => true
  | .decP1Other b | .decP2Other b => decide (b ≠ Config.PRE)
  | .decP3Other b => decide (b ≠ Config.STX)
  | .decAddrMatch b => decide (Config.ADDR_BASE ≤ b.toNat)
  | .decAddrOther _ | .decIgncmdAny _ | .decEscStore _ | .decEscFull _ | .decIgnescAny _ | .decPostAny _ => true
  | .decCmdOther b => decide (b ≠ Config.CMD_SET ∧ b ≠ Config.CMD_POLL)
  | .decDataStore b | .decDataFull b | .decIgnOther b => decide (b ≠ Config.ESC ∧ b ≠ Config.ETX)

end Sys2Proof
end

