-- ==== Sys2Proof/Decode.lean ====
section
/-! DEFINITION. Decoding of request words and decoder keys, the encoder, and the opcode table as data
(30_encoding.md R91 to R101, spec/opcode_table.json). -/

namespace Sys2Proof

/-! ## The request word's fields (R91) -/

/-- `op`, bits [31:28]. -/
def opField (w : ReqWord) : Nibble := w.extractLsb' 28 4

/-- `rsv`, bits [27:24]. -/
def rsvField (w : ReqWord) : Nibble := w.extractLsb' 24 4

/-- `pos`, bits [23:8]. -/
def posField (w : ReqWord) : Pos := w.extractLsb' 8 16

/-- `val`, bits [7:0]. -/
def valField (w : ReqWord) : Byte := w.extractLsb' 0 8

/-- `word = op ‖ rsv ‖ pos ‖ val` (R91). -/
def reqWord (op rsv : Nibble) (pos : Pos) (val : Byte) : ReqWord :=
  (op.setWidth 32 <<< 28) ||| (rsv.setWidth 32 <<< 24) ||| (pos.setWidth 32 <<< 8) ||| val.setWidth 32

/-! ## The decoder's keys (R99, R100) -/

/-- A state's 4-bit code (R100). -/
def DecState.code : DecState → Nibble
  | .preamble1 => 0#4
  | .preamble2 => 1#4
  | .preamble3 => 2#4
  | .address => 3#4
  | .decodeCommand => 4#4
  | .ignoreCommand => 5#4
  | .decodeData => 6#4
  | .decodeEscData => 7#4
  | .ignoreData => 8#4
  | .ignoreEscData => 9#4
  | .postambleOther => 10#4

/-- The state a code names; codes 11 to 15 name none (R101). -/
def DecState.ofCode (c : Nibble) : Option DecState :=
  match c.toNat with
  | 0 => some .preamble1
  | 1 => some .preamble2
  | 2 => some .preamble3
  | 3 => some .address
  | 4 => some .decodeCommand
  | 5 => some .ignoreCommand
  | 6 => some .decodeData
  | 7 => some .decodeEscData
  | 8 => some .ignoreData
  | 9 => some .ignoreEscData
  | 10 => some .postambleOther
  | _ => none

/-- `key = code(st) ‖ b` (R99). -/
def keyOf (code : Nibble) (b : Byte) : Key := (code.setWidth 12 <<< 8) ||| b.setWidth 12

/-- The code in a key, bits [11:8]. -/
def keyCode (k : Key) : Nibble := k.extractLsb' 8 4

/-- The byte in a key, bits [7:0]. -/
def keyByte (k : Key) : Byte := k.extractLsb' 0 8

/-- `candidate == addr`, where `candidate = b - 0x41` in the integers (R84, D6). -/
def addrMatches (addr b : Byte) : Bool := decide ((b.toNat : Int) - (Config.ADDR_BASE : Int) = (addr.toNat : Int))

/-- What a decoder row's condition may read besides the key (R99): `addr`, and whether `cur < RX_BYTES`. -/
structure RowContext where
  addr : Byte
  room : Bool
  deriving DecidableEq, Repr

/-- The row that state `st` and byte `b` select, in the priority order of R98. -/
def classify (c : RowContext) (st : DecState) (b : Byte) : Instr :=
  match st with
  | .preamble1 => if b = Config.PRE then .decP1Pre else .decP1Other b
  | .preamble2 => if b = Config.PRE then .decP2Pre else .decP2Other b
  | .preamble3 => if b = Config.STX then .decP3Stx else .decP3Other b
  | .address => if addrMatches c.addr b then .decAddrMatch b else .decAddrOther b
  | .decodeCommand =>
    if b = Config.CMD_SET then .decCmdSet else if b = Config.CMD_POLL then .decCmdPoll else .decCmdOther b
  | .ignoreCommand => .decIgncmdAny b
  | .decodeData =>
    if b = Config.ESC then .decDataEsc else if b = Config.ETX then .decDataEtx
    else if c.room then .decDataStore b else .decDataFull b
  | .decodeEscData => if c.room then .decEscStore b else .decEscFull b
  | .ignoreData =>
    if b = Config.ESC then .decIgnEsc else if b = Config.ETX then .decIgnEtx else .decIgnOther b
  | .ignoreEscData => .decIgnescAny b
  | .postambleOther => .decPostAny b

/-! ## Decoding -/

/-- The operation a request word spells; every word that spells none is ILLEGAL (R92, R96, R217, R218). -/
def decodeHost (w : ReqWord) : Instr :=
  if rsvField w = 0#4 then
    match (opField w).toNat with
    | 1 => .init (posField w) (valField w)
    | 2 => .setAddress (posField w) (valField w)
    | 3 => .process (posField w) (valField w)
    | 4 => .getBit (posField w) (valField w)
    | 5 => .getByte (posField w) (valField w)
    | 6 => .setBit (posField w) (valField w)
    | 7 => .setByte (posField w) (valField w)
    | 8 => .transmit (posField w) (valField w)
    | _ => .illegal w
  else .illegal w

/-- Why a bit string is no instruction. -/
inductive DecodeError where
  /-- A key whose code names no state (R101). -/
  | noSuchState (code : Nibble)
  /-- A bit string that is neither a 32-bit request word nor a 12-bit key (R91, R99). -/
  | noSuchFormat (nbits : Nat)
  /-- A number with bits above its format's. -/
  | tooWide (w : Nat)
  deriving DecidableEq, Repr

/-- The row a key selects (R99); a code of no state is rejected by name (R101). -/
def decodeKey (c : RowContext) (k : Key) : Except DecodeError Instr :=
  match DecState.ofCode (keyCode k) with
  | some st => .ok (classify c st (keyByte k))
  | none => .error (.noSuchState (keyCode k))

/-- An encoded instruction: the two formats of the opcode table. -/
inductive Code where
  /-- HOST_REQ32. -/
  | host (w : ReqWord)
  /-- DECODER_KEY12. -/
  | key (k : Key)
  deriving DecidableEq, Repr

/-- The instruction an encoding stands for, given what the decoder rows' conditions read. -/
def decode (c : RowContext) : Code → Except DecodeError Instr
  | .host w => .ok (decodeHost w)
  | .key k => decodeKey c k

/-- The conditions' inputs right after reset (10_state.md R20): the configured address, and room when RB has a byte. -/
def RowContext.atReset : RowContext :=
  { addr := Config.resetParams.nodeAddressCfg, room := decide (0 < Config.resetParams.rxBytes) }

/-- A bit string of a given width as an encoding: up to two bytes hold a 12-bit key, three or four a request
word (log 11). -/
def codeOfBits (nbits w : Nat) : Except DecodeError Code :=
  if nbits = 0 ∨ 32 < nbits then .error (.noSuchFormat nbits)
  else if nbits ≤ 16 then
    if w < 2 ^ 12 then .ok (.key (BitVec.ofNat 12 w)) else .error (.tooWide w)
  else if w < 2 ^ 32 then .ok (.host (BitVec.ofNat 32 w)) else .error (.tooWide w)

/-- The instruction read from bits numbered as the opcode table numbers them. A decoder row's conditions are
read as they stand right after reset; DEC_DATA_FULL and DEC_ESC_FULL share their keys with the STORE rows and
need a full RB (log 11). -/
def decodeTableWord (nbits w : Nat) : Option Instr :=
  match codeOfBits nbits w with
  | .ok c =>
    match decode RowContext.atReset c with
    | .ok i => some i
    | .error _ => none
  | .error _ => none

/-! ## Encoding -/

/-- The word or key of an instruction (R91 to R93, R99 and each row's match value). -/
def encode : Instr → Code
  | .init pos val => .host (reqWord 0x1#4 0#4 pos val)
  | .setAddress pos val => .host (reqWord 0x2#4 0#4 pos val)
  | .process pos val => .host (reqWord 0x3#4 0#4 pos val)
  | .getBit pos val => .host (reqWord 0x4#4 0#4 pos val)
  | .getByte pos val => .host (reqWord 0x5#4 0#4 pos val)
  | .setBit pos val => .host (reqWord 0x6#4 0#4 pos val)
  | .setByte pos val => .host (reqWord 0x7#4 0#4 pos val)
  | .transmit pos val => .host (reqWord 0x8#4 0#4 pos val)
  | .illegal w => .host w
  | .decP1Pre => .key 0x0FF#12
  | .decP1Other b => .key (keyOf 0#4 b)
  | .decP2Pre => .key 0x1FF#12
  | .decP2Other b => .key (keyOf 1#4 b)
  | .decP3Stx => .key 0x202#12
  | .decP3Other b => .key (keyOf 2#4 b)
  | .decAddrMatch b => .key (keyOf 3#4 b)
  | .decAddrOther b => .key (keyOf 3#4 b)
  | .decCmdSet => .key 0x454#12
  | .decCmdPoll => .key 0x450#12
  | .decCmdOther b => .key (keyOf 4#4 b)
  | .decIgncmdAny b => .key (keyOf 5#4 b)
  | .decDataEsc => .key 0x610#12
  | .decDataEtx => .key 0x603#12
  | .decDataStore b => .key (keyOf 6#4 b)
  | .decDataFull b => .key (keyOf 6#4 b)
  | .decEscStore b => .key (keyOf 7#4 b)
  | .decEscFull b => .key (keyOf 7#4 b)
  | .decIgnEsc => .key 0x810#12
  | .decIgnEtx => .key 0x803#12
  | .decIgnOther b => .key (keyOf 8#4 b)
  | .decIgnescAny b => .key (keyOf 9#4 b)
  | .decPostAny b => .key (keyOf 10#4 b)

/-- Whether a row's condition holds (R99): only the address rows and the rows that need or lack room have one. -/
def Instr.selectedIn (c : RowContext) : Instr → Bool
  | .decAddrMatch b => addrMatches c.addr b
  | .decAddrOther b => !addrMatches c.addr b
  | .decDataStore _ | .decEscStore _ => c.room
  | .decDataFull _ | .decEscFull _ => !c.room
  | .init _ _ | .setAddress _ _ | .process _ _ | .getBit _ _ | .getByte _ _ | .setBit _ _ | .setByte _ _
  | .transmit _ _ | .illegal _ => true
  | .decP1Pre | .decP1Other _ | .decP2Pre | .decP2Other _ | .decP3Stx | .decP3Other _ | .decCmdSet | .decCmdPoll
  | .decCmdOther _ | .decIgncmdAny _ | .decDataEsc | .decDataEtx | .decIgnEsc | .decIgnEtx | .decIgnOther _
  | .decIgnescAny _ | .decPostAny _ => true

/-! ## The opcode table as data (spec/opcode_table.json)

Within a format the first row in table order that matches wins (R99, and the ILLEGAL row's note). -/

/-- A row of format HOST_REQ32. -/
structure HostRow where
  mnemonic : String
  pat : ReqWord
  mask : ReqWord
  deriving DecidableEq, Repr

/-- The table's nine HOST_REQ32 rows. -/
def hostTable : List HostRow :=
  [ ⟨"INIT", 0x10000000#32, 0xFF000000#32⟩,
    ⟨"SET_ADDRESS", 0x20000000#32, 0xFF000000#32⟩,
    ⟨"PROCESS", 0x30000000#32, 0xFF000000#32⟩,
    ⟨"GET_BIT", 0x40000000#32, 0xFF000000#32⟩,
    ⟨"GET_BYTE", 0x50000000#32, 0xFF000000#32⟩,
    ⟨"SET_BIT", 0x60000000#32, 0xFF000000#32⟩,
    ⟨"SET_BYTE", 0x70000000#32, 0xFF000000#32⟩,
    ⟨"TRANSMIT", 0x80000000#32, 0xFF000000#32⟩,
    ⟨"ILLEGAL", 0x00000000#32, 0x00000000#32⟩ ]

/-- Whether a word has a row's match under its mask. -/
def HostRow.hits (r : HostRow) (w : ReqWord) : Bool := decide (w &&& r.mask = r.pat)

/-- A row of format DECODER_KEY12, with its condition's value where it has one. -/
structure KeyRow where
  mnemonic : String
  pat : Key
  mask : Key
  cond : Byte → Bool

/-- The table's 23 DECODER_KEY12 rows, for the values the conditions read. -/
def keyTable (c : RowContext) : List KeyRow :=
  [ ⟨"DEC_P1_PRE", 0x0FF#12, 0xFFF#12, fun _ => true⟩,
    ⟨"DEC_P1_OTHER", 0x000#12, 0xF00#12, fun _ => true⟩,
    ⟨"DEC_P2_PRE", 0x1FF#12, 0xFFF#12, fun _ => true⟩,
    ⟨"DEC_P2_OTHER", 0x100#12, 0xF00#12, fun _ => true⟩,
    ⟨"DEC_P3_STX", 0x202#12, 0xFFF#12, fun _ => true⟩,
    ⟨"DEC_P3_OTHER", 0x200#12, 0xF00#12, fun _ => true⟩,
    ⟨"DEC_ADDR_MATCH", 0x300#12 ||| BitVec.ofNat 12 (0x41 + c.addr.toNat), 0xFFF#12, addrMatches c.addr⟩,
    ⟨"DEC_ADDR_OTHER", 0x300#12, 0xF00#12, fun _ => true⟩,
    ⟨"DEC_CMD_SET", 0x454#12, 0xFFF#12, fun _ => true⟩,
    ⟨"DEC_CMD_POLL", 0x450#12, 0xFFF#12, fun _ => true⟩,
    ⟨"DEC_CMD_OTHER", 0x400#12, 0xF00#12, fun _ => true⟩,
    ⟨"DEC_IGNCMD_ANY", 0x500#12, 0xF00#12, fun _ => true⟩ ] ++
  [ ⟨"DEC_DATA_ESC", 0x610#12, 0xFFF#12, fun _ => true⟩,
    ⟨"DEC_DATA_ETX", 0x603#12, 0xFFF#12, fun _ => true⟩,
    ⟨"DEC_DATA_STORE", 0x600#12, 0xF00#12, fun _ => c.room⟩,
    ⟨"DEC_DATA_FULL", 0x600#12, 0xF00#12, fun _ => !c.room⟩,
    ⟨"DEC_ESC_STORE", 0x700#12, 0xF00#12, fun _ => c.room⟩,
    ⟨"DEC_ESC_FULL", 0x700#12, 0xF00#12, fun _ => !c.room⟩,
    ⟨"DEC_IGN_ESC", 0x810#12, 0xFFF#12, fun _ => true⟩,
    ⟨"DEC_IGN_ETX", 0x803#12, 0xFFF#12, fun _ => true⟩,
    ⟨"DEC_IGN_OTHER", 0x800#12, 0xF00#12, fun _ => true⟩,
    ⟨"DEC_IGNESC_ANY", 0x900#12, 0xF00#12, fun _ => true⟩,
    ⟨"DEC_POST_ANY", 0xA00#12, 0xF00#12, fun _ => true⟩ ]

/-- Whether a key has a row's match under its mask and the row's condition holds of its byte. -/
def KeyRow.hits (r : KeyRow) (k : Key) : Bool := decide (k &&& r.mask = r.pat) && r.cond (keyByte k)

/-- The mnemonic of the first row of the table that an encoding matches. -/
def tableRow (c : RowContext) : Code → Option String
  | .host w => (hostTable.find? (fun r => r.hits w)).map HostRow.mnemonic
  | .key k => ((keyTable c).find? (fun r => r.hits k)).map KeyRow.mnemonic

end Sys2Proof
end

