-- ==== Sys2Proof/Machine/State.lean ====
section
/-! DEFINITION. The state of one core instance and of its interfaces, as plain data (10_state.md R20, R29, R30). -/

namespace Sys2Proof.Machine

/-- What a byte of a frame buffer that nothing has written reads as: `allocate` zero-initialises (R120, R260). -/
abbrev unlistedByte : Byte := 0x00#8

/-- The contents of one frame buffer, as the list of its bytes that are not 0x00, by rising index (log 6). -/
abbrev Memory := List Host.Cell

/-- The canonical form of a buffer's contents: indices strictly rising, no listed byte equal to what an
unlisted index reads as. -/
abbrev Memory.wf (m : Memory) : Prop :=
  m.Pairwise (fun a b => a.1 < b.1) ∧ ∀ c ∈ m, c.2 ≠ unlistedByte

/-- Every listed index lies below the buffer's depth (20_memory.md R50). -/
abbrev Memory.below (m : Memory) (depth : Nat) : Prop := ∀ c ∈ m, c.1 < depth

/-- The two frame buffers (20_memory.md R50). -/
inductive Buf where
  /-- ReceiveBuffer (R26). -/
  | rb
  /-- TransmitBuffer (R27). -/
  | tb
  deriving DecidableEq, Repr

/-- An event of the output trace (10_state.md R29). -/
inductive TxEvent where
  /-- TE_HIGH: transmit-enable raised. -/
  | teHigh
  /-- BYTE(b): a byte handed to the sink. -/
  | byte (b : Byte)
  /-- TE_LOW: transmit-enable lowered. -/
  | teLow
  deriving DecidableEq, Repr

/-- The status of a host operation (30_encoding.md R95). -/
inductive Status where
  | ok | reject | outOfRange | txFail | illegal
  deriving DecidableEq, Repr

/-- The transmit status `txs` that a decoder step returns (43_decoder.md R170). -/
inductive TxStatus where
  | none | ok | txFail
  deriving DecidableEq, Repr

/-- The response of a host operation (30_encoding.md R94); `bytes` is what PROCESS consumed, and empty otherwise. -/
structure Response where
  status : Status
  data : Byte
  bytes : List Byte
  deriving DecidableEq, Repr

/-- What the environment asks of the core between operations. -/
inductive HostInput where
  /-- A host request word (30_encoding.md R91). -/
  | request (w : ReqWord)
  /-- Hardware reset (70_reset_and_hazards.md R260). -/
  | reset
  deriving DecidableEq, Repr

/-- The reasons a step could stop with a fault. There is none: the core has no traps, every failing operation
returns a status, and no behaviour is stuck (60_exceptions.md R231, R240; 93_implementation_defined.md). -/
inductive Fault where
  deriving DecidableEq, Repr

/-- The reasons a request could be refused. -/
inductive Refusal where
  /-- Raised by exec's arm of an instruction without a meaning. Safe. No arm of this model raises it. -/
  | notModelled (mnemonic : String)
  /-- Raised by `State.build` for parameters outside 70_reset_and_hazards.md R264: such an instance is outside
  the spec and is refused at construction (95_test_vectors.md V-RST-03). Safe. No instruction raises it. -/
  | instanceOutsideSpec
  deriving DecidableEq, Repr

/-- One core instance (`st` to `te`, the tuple of R20), its parameters, its interfaces, and the environment's
inputs. -/
structure State where
  /-- The instance's parameters (00_scope.md R6); no step writes them (log 1). -/
  params : Params
  /-- DecoderState (R23). -/
  st : DecState
  /-- ReceiveCursor (R24). -/
  cur : Nat
  /-- NodeAddress (R25). -/
  addr : Byte
  /-- ReceiveBuffer (R26). -/
  rb : Memory
  /-- TransmitBuffer (R27). -/
  tb : Memory
  /-- Transmit-enable (R28). -/
  te : Bool
  /-- The output trace, oldest event first (R29). No rule reads it. -/
  trace : List TxEvent
  /-- The receive stream: every byte the core has not consumed, next byte first, those still to arrive too (R30, log 3). -/
  rx : List Byte
  /-- What the environment asks next, oldest first (log 2). -/
  inputs : List HostInput
  /-- The responses returned so far, oldest first (R94). A record like the trace: no rule reads it (R31, log 7). -/
  responses : List Response
  /-- What the last decoder step returned (R170, log 8). -/
  txs : TxStatus
  /-- The environment's choices of how many bytes the next PROCESS operations find (R214, log 4). -/
  takes : List Nat
  /-- The environment's choices of the next sink outcomes (R156, log 5). -/
  sinks : List SinkOutcome
  /-- How many PROCESS draws were made: the argument of the free value `Config.freeTake` (log 4). -/
  takeDraws : Nat
  /-- How many sink draws were made: the argument of the free value `Config.freeSink` (log 5). -/
  sinkDraws : Nat
  deriving DecidableEq, Repr

/-- An instance right after hardware reset (R20, R260), with nothing asked and no byte received (logs 2 to 8). -/
def State.resetFor (p : Params) : State :=
  { params := p, st := .preamble1, cur := 0, addr := p.nodeAddressCfg, rb := [], tb := [], te := false
    trace := [], rx := [], inputs := [], responses := [], txs := .none
    takes := [], sinks := [], takeDraws := 0, sinkDraws := 0 }

/-- The machine right after reset, for the instance of 95_test_vectors.md X1 (log 1). -/
def State.reset : State := State.resetFor Config.resetParams

/-- Building an instance: refused outside the elaboration constraints (R264). -/
def State.build (p : Params) : Host.Outcome State Fault Refusal :=
  if p.Valid then .next (State.resetFor p) else .refused .instanceOutsideSpec

end Sys2Proof.Machine
end

