-- ==== Sys2Proof/Machine/Ops.lean ====
section
/-! DEFINITION. The named operations over the frame buffers, the core's registers, its interfaces and the
environment's draws. Every meaning goes through these. -/

namespace Sys2Proof.Machine

/-! ## One buffer's contents -/

/-- Byte `i` of a buffer's contents. -/
def Memory.byteAt : Memory → Nat → Byte
  | [], _ => unlistedByte
  | (a, v) :: m, i => if i = a then v else Memory.byteAt m i

/-- The contents with byte `i` set to `v`, in canonical form: a byte 0x00 is not listed. -/
def Memory.put : Memory → Nat → Byte → Memory
  | [], i, v => if v = unlistedByte then [] else [(i, v)]
  | (a, w) :: m, i, v =>
    if i < a then
      if v = unlistedByte then (a, w) :: m else (i, v) :: (a, w) :: m
    else if i = a then
      if v = unlistedByte then m else (i, v) :: m
    else (a, w) :: Memory.put m i v

/-- `allocate(size)`: `size` bytes 0x00 (40_frame_buffers.md R120). The depth is the instance's, so a buffer's
contents do not depend on it (R123). -/
def allocate (_size : Nat) : Memory := []

/-! ## The frame-buffer primitives (40_frame_buffers.md) -/

/-- `length(buf)`: RX_BYTES for RB and TX_BYTES for TB, at all times (R123). -/
def State.bufLen (s : State) : Buf → Nat
  | .rb => s.params.rxBytes
  | .tb => s.params.txBytes

/-- A buffer's contents. -/
def State.buf (s : State) : Buf → Memory
  | .rb => s.rb
  | .tb => s.tb

/-- The state with a buffer's contents replaced. -/
def State.setBuf (s : State) (b : Buf) (m : Memory) : State :=
  match b with
  | .rb => { s with rb := m }
  | .tb => { s with tb := m }

/-- `MemRead(buf, i, 1)`; `none` is OutOfRange (R121). -/
def State.memRead (s : State) (b : Buf) (i : Nat) : Option Byte :=
  if s.bufLen b ≤ i then none else some ((s.buf b).byteAt i)

/-- `MemWrite(buf, i, 1, v)`; `none` is OutOfRange, with no byte changed (R122). -/
def State.memWrite (s : State) (b : Buf) (i : Nat) (v : Byte) : Option State :=
  if s.bufLen b ≤ i then none else some (s.setBuf b ((s.buf b).put i v))

/-! ## Registers -/

/-- `st <- S`, the only control transfer (R22). -/
def State.setSt (s : State) (st : DecState) : State := { s with st := st }

/-- `cur <- n`. -/
def State.setCur (s : State) (n : Nat) : State := { s with cur := n }

/-- `addr <- a`. -/
def State.setAddr (s : State) (a : Byte) : State := { s with addr := a }

/-- `te <- v`. -/
def State.setTe (s : State) (v : Bool) : State := { s with te := v }

/-- What a decoder step returns (R170). -/
def State.setTxs (s : State) (t : TxStatus) : State := { s with txs := t }

/-! ## Interfaces -/

/-- `emit(ev)` for a sequence of events, in order (00_scope.md R9). -/
def State.emit (s : State) (evs : List TxEvent) : State := { s with trace := s.trace ++ evs }

/-- `return (status, data)`, with the consumed bytes for PROCESS (30_encoding.md R94). -/
def State.respond (s : State) (r : Response) : State := { s with responses := s.responses ++ [r] }

/-- A host operation that completes with a data byte (R94). -/
def State.done (s : State) (data : Byte) : State := s.respond { status := .ok, data := data, bytes := [] }

/-- The core's only form of failure: the operation ends with a status and data 0x00, and nothing else changes.
`raise OutOfRange(info)` is `fail .outOfRange` (00_scope.md R9, 60_exceptions.md R231). It stands where an
exception entry would stand: there is no trap entry and no return from one (R240, R241). -/
def State.fail (s : State) (st : Status) : State := s.respond { status := st, data := 0x00#8, bytes := [] }

/-! ## The environment's draws -/

/-- How many bytes the next PROCESS finds available: the environment's next choice, or a free value when its
list has run out; with no byte pending it is 0 (44_host_operations.md R214, log 4). A choice above the number
of bytes pending stands for that number. -/
def State.available (s : State) : Nat :=
  match s.rx with
  | [] => 0
  | _ :: _ =>
    match s.takes with
    | k :: _ => k
    | [] => Config.freeTake s.takeDraws

/-- The state after PROCESS has made its draw and removed the bytes from the front of the stream (R214). -/
def State.consume (s : State) : State :=
  { s with rx := s.rx.drop s.available, takes := s.takes.tail, takeDraws := s.takeDraws + 1 }

/-- The outcome of the next sink write: the environment's next choice, or a free value when its list has run
out (42_encoder.md R156, log 5). -/
def State.sinkOutcome (s : State) : SinkOutcome :=
  match s.sinks with
  | o :: _ => o
  | [] => Config.freeSink s.sinkDraws

/-- The state after a sink draw. -/
def State.afterSinkDraw (s : State) : State :=
  { s with sinks := s.sinks.tail, sinkDraws := s.sinkDraws + 1 }

/-! ## Initialisation and reset -/

/-- What INIT and hardware reset do to the core's state, with the given node address (R210, R260). -/
def State.initialise (s : State) (a : Byte) : State :=
  { s with
    st := .preamble1, cur := 0, addr := a
    rb := allocate s.params.rxBytes, tb := allocate s.params.txBytes, te := false }

/-- Hardware reset: the initialised state with the configured address and an empty output trace; the receive
stream is not touched (70_reset_and_hazards.md R260). Nothing is returned for it, so the records of what was
returned stay as they are (logs 7, 8). -/
def State.hardwareReset (s : State) : State :=
  { s.initialise s.params.nodeAddressCfg with trace := [] }

/-! ## The next input -/

/-- The environment's next input, and the state with it taken off the queue; none when nothing is asked. -/
def State.nextInput (s : State) : Option (HostInput × State) :=
  match s.inputs with
  | [] => none
  | i :: rest => some (i, { s with inputs := rest })

/-- Ask for a host operation next, before everything already queued. -/
def State.askFirst (s : State) (w : ReqWord) : State := { s with inputs := .request w :: s.inputs }

/-- What the decoder rows' conditions read in this state (30_encoding.md R99). -/
def State.rowContext (s : State) : RowContext :=
  { addr := s.addr, room := decide (s.cur < s.params.rxBytes) }

/-- Arrange that the next operation is a PROCESS that takes exactly byte `b`, with the decoder in state `st`:
the one way a decoder row runs (43_decoder.md R170). -/
def State.feedFirst (s : State) (st : DecState) (b : Byte) : State :=
  { s with st := st, rx := b :: s.rx, takes := 1 :: s.takes }.askFirst 0x30000000#32

end Sys2Proof.Machine
end

