-- ==== Sys2Proof/Machine/Operands.lean ====
section
/-! DEFINITION. The operand forms of the host operations and of the wire's address byte (30_encoding.md R83,
R93, R97; 41_accessors.md). -/

namespace Sys2Proof.Machine

/-- `byteIndex = floor(pos/8)` of a bit position (R97). -/
def byteIndex (pos : Pos) : Nat := pos.toNat / 8

/-- `bitIndex = pos mod 8` of a bit position, bit 0 the least significant (R53, R97). -/
def bitIndex (pos : Pos) : Nat := pos.toNat % 8

/-- `1 << bitIndex` (R97). -/
def bitMask (k : Nat) : Byte := 1#8 <<< k

/-- `(b >> k) & 1` (R53, R130). -/
def bitOf (b : Byte) (k : Nat) : Byte := (b >>> k) &&& 1#8

/-- The byte with bit `k` set or cleared: OR with the mask, or AND with its complement (R134). -/
def withBit (b : Byte) (k : Nat) (v : Bool) : Byte := if v then b ||| bitMask k else b &&& ~~~(bitMask k)

/-- SET_BIT's own check, `floor((pos + 7)/8) > TX_BYTES` (R134, R135). -/
def setBitRejects (s : State) (pos : Pos) : Bool := decide (s.params.txBytes < (pos.toNat + 7) / 8)

/-- SET_BYTE's own check, `pos > TX_BYTES`, strict (R136). -/
def setByteRejects (s : State) (pos : Pos) : Bool := decide (s.params.txBytes < pos.toNat)

/-- The address byte `0x41 + addr` (R83). For every legal `addr` the sum fits in a byte (R25); log 12. -/
def addrByte (addr : Byte) : Byte := BitVec.ofNat 8 (Config.ADDR_BASE + addr.toNat)

end Sys2Proof.Machine
end

