-- ==== Sys2Proof/Machine/Accessors.lean ====
section
/-! DEFINITION. The bit and byte accessors: GET_BIT and GET_BYTE read RB, SET_BIT and SET_BYTE write TB
(41_accessors.md). -/

namespace Sys2Proof.Machine

/-- GET_BIT (R130). The rule's bound test is MemRead's own (R121, R232). -/
def execGetBit (pos : Pos) (_val : Byte) (s : State) : Host.Outcome State Fault Refusal :=
  match s.memRead .rb (byteIndex pos) with
  | none => .next (s.fail .outOfRange)
  | some b => .next (s.done (bitOf b (bitIndex pos)))

/-- GET_BYTE (R132). -/
def execGetByte (pos : Pos) (_val : Byte) (s : State) : Host.Outcome State Fault Refusal :=
  match s.memRead .rb pos.toNat with
  | none => .next (s.fail .outOfRange)
  | some b => .next (s.done b)

/-- Write one bit of TB by reading, changing and writing its byte; `none` is OutOfRange (R134, R57). -/
def writeTbBit (s : State) (pos : Pos) (v : Bool) : Option State :=
  match s.memRead .tb (byteIndex pos) with
  | none => none
  | some b => s.memWrite .tb (byteIndex pos) (withBit b (bitIndex pos) v)

/-- SET_BIT (R134): the value check, then the accessor's own check, then the buffer's (R238). -/
def execSetBit (pos : Pos) (val : Byte) (s : State) : Host.Outcome State Fault Refusal :=
  if 1 < val.toNat then .next (s.fail .illegal)
  else if setBitRejects s pos then .next (s.fail .reject)
  else
    match writeTbBit s pos (decide (val = 1#8)) with
    | none => .next (s.fail .outOfRange)
    | some t => .next (t.done 0x00#8)

/-- SET_BYTE (R136): the accessor's own check, then the buffer's. -/
def execSetByte (pos : Pos) (val : Byte) (s : State) : Host.Outcome State Fault Refusal :=
  if setByteRejects s pos then .next (s.fail .reject)
  else
    match s.memWrite .tb pos.toNat val with
    | none => .next (s.fail .outOfRange)
    | some t => .next (t.done 0x00#8)

end Sys2Proof.Machine
end

