-- ==== Sys2Proof/Machine/Flags.lean ====
section
/-! DEFINITION. Status codes. The core has no flag register and no condition codes: a status is returned and
never stored (10_state.md R31, 30_encoding.md R95). -/

namespace Sys2Proof.Machine

/-- The 3-bit code of a status (R95); codes 5 to 7 are never returned. -/
def Status.code : Status → BitVec 3
  | .ok => 0#3
  | .reject => 1#3
  | .outOfRange => 2#3
  | .txFail => 3#3
  | .illegal => 4#3

/-- The status of one encoder run (42_encoder.md R152). -/
def txStatusOf : SinkOutcome → TxStatus
  | .ok => .ok
  | .fail _ => .txFail

/-- TRANSMIT's status (R158). -/
def transmitStatus : SinkOutcome → Status
  | .ok => .ok
  | .fail _ => .txFail

/-- Whether a decoder step reported a failed transmission (44_host_operations.md R214). -/
def TxStatus.failed : TxStatus → Bool
  | .txFail => true
  | .none => false
  | .ok => false

/-- PROCESS's status: TX_FAIL if any poll it answered failed (R214). -/
def processStatus (anyFailed : Bool) : Status := if anyFailed then .txFail else .ok

end Sys2Proof.Machine
end

