-- ==== Sys2Proof/Machine/Encoder.lean ====
section
/-! DEFINITION. The packet encoder, and TRANSMIT (42_encoder.md). -/

namespace Sys2Proof.Machine

/-- The payload: TB read with MemRead from index 0 upward, verbatim (R151, R153). Each read succeeds (R124). -/
def payload (s : State) : List Byte := (List.range s.params.txBytes).filterMap (fun i => s.memRead .tb i)

/-- The outbound frame (R86, R151). No byte is escaped (R153). -/
def frame (s : State) : List Byte :=
  [Config.PRE, Config.PRE, Config.STX, addrByte s.addr, Config.CMD_RESP] ++ payload s ++ [Config.ETX]

/-- The bytes that reach the sink under an outcome: all, or the first `k` (R152, R156). -/
def sentBytes (f : List Byte) : SinkOutcome → List Byte
  | .ok => f
  | .fail k => f.take k

/-- `Encode()`: raise TE, write, lower TE on every path (R152, R157). Its status is `txStatusOf` of the drawn
outcome. It is one atomic operation (R150, R155); the settle delay is not modelled (R154). -/
def encoderRun (s : State) : State :=
  let sent := sentBytes (frame s) s.sinkOutcome
  let raised := (s.setTe true).emit [.teHigh]
  let written := raised.afterSinkDraw.emit (sent.map TxEvent.byte)
  (written.setTe false).emit [.teLow]

/-- TRANSMIT (R158). -/
def execTransmit (_pos : Pos) (_val : Byte) (s : State) : Host.Outcome State Fault Refusal :=
  .next ((encoderRun s).respond { status := transmitStatus s.sinkOutcome, data := 0x00#8, bytes := [] })

end Sys2Proof.Machine
end

