-- ==== Sys2Proof/Machine/Decoder.lean ====
section
/-! DEFINITION. The receive decoder: one meaning per decoder row, and the decoder step (43_decoder.md).

Each row's effect is total: a decoder step never fails (60_exceptions.md R231). A row's meaning is its
pseudocode, whatever the state it is asked in; the decoder step asks for it only where the table selects it
(log 9). -/

namespace Sys2Proof.Machine

/-- `MemWrite(RB, cur, 1, b); cur <- cur + 1` (R185, R187). A failing MemWrite changes nothing (R122). -/
def storePayload (b : Byte) (s : State) : State :=
  match s.memWrite .rb s.cur b with
  | none => s
  | some t => t.setCur (s.cur + 1)

/-! ## The effects of the rows -/

/-- R171: cur <- 0; st <- Preamble2. -/
def decP1Pre (s : State) : State := ((s.setCur 0).setSt .preamble2).setTxs .none

/-- R172: cur <- 0; st <- Preamble1. -/
def decP1Other (_b : Byte) (s : State) : State := ((s.setCur 0).setSt .preamble1).setTxs .none

/-- R173: st <- Preamble3. -/
def decP2Pre (s : State) : State := (s.setSt .preamble3).setTxs .none

/-- R174: st <- Preamble1; the byte is not looked at again. -/
def decP2Other (_b : Byte) (s : State) : State := (s.setSt .preamble1).setTxs .none

/-- R175: st <- Address. -/
def decP3Stx (s : State) : State := (s.setSt .address).setTxs .none

/-- R176: st <- Preamble1, for 0xFF too. -/
def decP3Other (_b : Byte) (s : State) : State := (s.setSt .preamble1).setTxs .none

/-- R177: if (b - 0x41) == addr: st <- DecodeCommand. -/
def decAddrMatch (b : Byte) (s : State) : State := (if addrMatches s.addr b then s.setSt .decodeCommand else s).setTxs .none

/-- R178: st <- IgnoreCommand. -/
def decAddrOther (_b : Byte) (s : State) : State := (s.setSt .ignoreCommand).setTxs .none

/-- R179: st <- DecodeData. -/
def decCmdSet (s : State) : State := (s.setSt .decodeData).setTxs .none

/-- R180: txs <- Encode(); st <- Preamble1; return txs, whatever the sink does (C5, D14). -/
def decCmdPoll (s : State) : State := ((encoderRun s).setSt .preamble1).setTxs (txStatusOf s.sinkOutcome)

/-- R181: st <- PostambleOther. -/
def decCmdOther (_b : Byte) (s : State) : State := (s.setSt .postambleOther).setTxs .none

/-- R182: st <- IgnoreData. -/
def decIgncmdAny (_b : Byte) (s : State) : State := (s.setSt .ignoreData).setTxs .none

/-- R183: st <- DecodeEscData. -/
def decDataEsc (s : State) : State := (s.setSt .decodeEscData).setTxs .none

/-- R184: st <- Preamble1; `cur` keeps its value. -/
def decDataEtx (s : State) : State := (s.setSt .preamble1).setTxs .none

/-- R185: MemWrite(RB, cur, 1, b); cur <- cur + 1. -/
def decDataStore (b : Byte) (s : State) : State := (storePayload b s).setTxs .none

/-- R186: nothing: the byte is dropped. -/
def decDataFull (_b : Byte) (s : State) : State := s.setTxs .none

/-- R187: MemWrite(RB, cur, 1, b); cur <- cur + 1; st <- DecodeData. -/
def decEscStore (b : Byte) (s : State) : State := ((storePayload b s).setSt .decodeData).setTxs .none

/-- R188: st <- DecodeData: the byte is dropped, 0x03 too. -/
def decEscFull (_b : Byte) (s : State) : State := (s.setSt .decodeData).setTxs .none

/-- R189: st <- IgnoreEscData. -/
def decIgnEsc (s : State) : State := (s.setSt .ignoreEscData).setTxs .none

/-- R190: st <- Preamble1. -/
def decIgnEtx (s : State) : State := (s.setSt .preamble1).setTxs .none

/-- R191: nothing: the byte is discarded. -/
def decIgnOther (_b : Byte) (s : State) : State := s.setTxs .none

/-- R192: st <- IgnoreData. -/
def decIgnescAny (_b : Byte) (s : State) : State := (s.setSt .ignoreData).setTxs .none

/-- R193: st <- Preamble1. -/
def decPostAny (_b : Byte) (s : State) : State := (s.setSt .preamble1).setTxs .none

/-! ## The decoder step -/

/-- `DecoderStep(b)` (R170): exactly one of the rows, chosen by `st`, `b`, `addr` and `cur`. -/
def decoderStep (b : Byte) (s : State) : State :=
  match s.st with
  | .preamble1 => if b = Config.PRE then decP1Pre s else decP1Other b s
  | .preamble2 => if b = Config.PRE then decP2Pre s else decP2Other b s
  | .preamble3 => if b = Config.STX then decP3Stx s else decP3Other b s
  | .address => if addrMatches s.addr b then decAddrMatch b s else decAddrOther b s
  | .decodeCommand =>
    if b = Config.CMD_SET then decCmdSet s
    else if b = Config.CMD_POLL then decCmdPoll s
    else decCmdOther b s
  | .ignoreCommand => decIgncmdAny b s
  | .decodeData =>
    if b = Config.ESC then decDataEsc s
    else if b = Config.ETX then decDataEtx s
    else if s.cur < s.params.rxBytes then decDataStore b s
    else decDataFull b s
  | .decodeEscData => if s.cur < s.params.rxBytes then decEscStore b s else decEscFull b s
  | .ignoreData =>
    if b = Config.ESC then decIgnEsc s
    else if b = Config.ETX then decIgnEtx s
    else decIgnOther b s
  | .ignoreEscData => decIgnescAny b s
  | .postambleOther => decPostAny b s

/-- The decoder steps of a byte sequence, in order, and whether any of them reported TX_FAIL; a failure does
not stop the loop (44_host_operations.md R214, C5, D14). -/
def feed : List Byte → State → State × Bool
  | [], s => (s, false)
  | b :: bs, s =>
    let t := decoderStep b s
    let r := feed bs t
    (r.1, t.txs.failed || r.2)

/-! ## The rows as instructions -/

/-- R171. -/
def execDecP1Pre (s : State) : Host.Outcome State Fault Refusal := .next (decP1Pre s)

/-- R172. -/
def execDecP1Other (b : Byte) (s : State) : Host.Outcome State Fault Refusal := .next (decP1Other b s)

/-- R173. -/
def execDecP2Pre (s : State) : Host.Outcome State Fault Refusal := .next (decP2Pre s)

/-- R174. -/
def execDecP2Other (b : Byte) (s : State) : Host.Outcome State Fault Refusal := .next (decP2Other b s)

/-- R175. -/
def execDecP3Stx (s : State) : Host.Outcome State Fault Refusal := .next (decP3Stx s)

/-- R176. -/
def execDecP3Other (b : Byte) (s : State) : Host.Outcome State Fault Refusal := .next (decP3Other b s)

/-- R177. -/
def execDecAddrMatch (b : Byte) (s : State) : Host.Outcome State Fault Refusal := .next (decAddrMatch b s)

/-- R178. -/
def execDecAddrOther (b : Byte) (s : State) : Host.Outcome State Fault Refusal := .next (decAddrOther b s)

/-- R179. -/
def execDecCmdSet (s : State) : Host.Outcome State Fault Refusal := .next (decCmdSet s)

/-- R180. -/
def execDecCmdPoll (s : State) : Host.Outcome State Fault Refusal := .next (decCmdPoll s)

/-- R181. -/
def execDecCmdOther (b : Byte) (s : State) : Host.Outcome State Fault Refusal := .next (decCmdOther b s)

/-- R182. -/
def execDecIgncmdAny (b : Byte) (s : State) : Host.Outcome State Fault Refusal := .next (decIgncmdAny b s)

/-- R183. -/
def execDecDataEsc (s : State) : Host.Outcome State Fault Refusal := .next (decDataEsc s)

/-- R184. -/
def execDecDataEtx (s : State) : Host.Outcome State Fault Refusal := .next (decDataEtx s)

/-- R185. -/
def execDecDataStore (b : Byte) (s : State) : Host.Outcome State Fault Refusal := .next (decDataStore b s)

/-- R186. -/
def execDecDataFull (b : Byte) (s : State) : Host.Outcome State Fault Refusal := .next (decDataFull b s)

/-- R187. -/
def execDecEscStore (b : Byte) (s : State) : Host.Outcome State Fault Refusal := .next (decEscStore b s)

/-- R188. -/
def execDecEscFull (b : Byte) (s : State) : Host.Outcome State Fault Refusal := .next (decEscFull b s)

/-- R189. -/
def execDecIgnEsc (s : State) : Host.Outcome State Fault Refusal := .next (decIgnEsc s)

/-- R190. -/
def execDecIgnEtx (s : State) : Host.Outcome State Fault Refusal := .next (decIgnEtx s)

/-- R191. -/
def execDecIgnOther (b : Byte) (s : State) : Host.Outcome State Fault Refusal := .next (decIgnOther b s)

/-- R192. -/
def execDecIgnescAny (b : Byte) (s : State) : Host.Outcome State Fault Refusal := .next (decIgnescAny b s)

/-- R193. -/
def execDecPostAny (b : Byte) (s : State) : Host.Outcome State Fault Refusal := .next (decPostAny b s)

end Sys2Proof.Machine
end

