-- ==== Sys2Proof/Machine/HostOps.lean ====
section
/-! DEFINITION. INIT, SET_ADDRESS, PROCESS, and requests that spell no operation (44_host_operations.md). -/

namespace Sys2Proof.Machine

/-- INIT (R210). -/
def execInit (_pos : Pos) (val : Byte) (s : State) : Host.Outcome State Fault Refusal :=
  if Config.MAX_ADDRESS < val.toNat then .next (s.fail .reject)
  else .next ((s.initialise val).done 0x00#8)

/-- SET_ADDRESS (R212). -/
def execSetAddress (_pos : Pos) (val : Byte) (s : State) : Host.Outcome State Fault Refusal :=
  if Config.MAX_ADDRESS < val.toNat then .next (s.fail .reject)
  else .next ((s.setAddr val).done 0x00#8)

/-- PROCESS (R214): draw how many bytes are available, take them, and feed them to the decoder in order. -/
def execProcess (_pos : Pos) (_val : Byte) (s : State) : Host.Outcome State Fault Refusal :=
  let bs := s.rx.take s.available
  let r := feed bs s.consume
  .next (r.1.respond { status := processStatus r.2, data := 0x00#8, bytes := bs })

/-- A request word that spells no operation (R218). -/
def execIllegal (_word : ReqWord) (s : State) : Host.Outcome State Fault Refusal := .next (s.fail .illegal)

end Sys2Proof.Machine
end

