-- ==== Sys2Proof/Machine/Dispatch.lean ====
section
/-! DEFINITION. exec: one arm per constructor of Instr, each one call of that instruction's meaning. -/

namespace Sys2Proof.Machine

def exec (i : Instr) (s : State) : Host.Outcome State Fault Refusal :=
  match i with
  | .init pos val => Sys2Proof.Machine.execInit pos val s
  | .setAddress pos val => Sys2Proof.Machine.execSetAddress pos val s
  | .process pos val => Sys2Proof.Machine.execProcess pos val s
  | .getBit pos val => Sys2Proof.Machine.execGetBit pos val s
  | .getByte pos val => Sys2Proof.Machine.execGetByte pos val s
  | .setBit pos val => Sys2Proof.Machine.execSetBit pos val s
  | .setByte pos val => Sys2Proof.Machine.execSetByte pos val s
  | .transmit pos val => Sys2Proof.Machine.execTransmit pos val s
  | .illegal word => Sys2Proof.Machine.execIllegal word s
  | .decP1Pre => Sys2Proof.Machine.execDecP1Pre s
  | .decP1Other b => Sys2Proof.Machine.execDecP1Other b s
  | .decP2Pre => Sys2Proof.Machine.execDecP2Pre s
  | .decP2Other b => Sys2Proof.Machine.execDecP2Other b s
  | .decP3Stx => Sys2Proof.Machine.execDecP3Stx s
  | .decP3Other b => Sys2Proof.Machine.execDecP3Other b s
  | .decAddrMatch b => Sys2Proof.Machine.execDecAddrMatch b s
  | .decAddrOther b => Sys2Proof.Machine.execDecAddrOther b s
  | .decCmdSet => Sys2Proof.Machine.execDecCmdSet s
  | .decCmdPoll => Sys2Proof.Machine.execDecCmdPoll s
  | .decCmdOther b => Sys2Proof.Machine.execDecCmdOther b s
  | .decIgncmdAny b => Sys2Proof.Machine.execDecIgncmdAny b s
  | .decDataEsc => Sys2Proof.Machine.execDecDataEsc s
  | .decDataEtx => Sys2Proof.Machine.execDecDataEtx s
  | .decDataStore b => Sys2Proof.Machine.execDecDataStore b s
  | .decDataFull b => Sys2Proof.Machine.execDecDataFull b s
  | .decEscStore b => Sys2Proof.Machine.execDecEscStore b s
  | .decEscFull b => Sys2Proof.Machine.execDecEscFull b s
  | .decIgnEsc => Sys2Proof.Machine.execDecIgnEsc s
  | .decIgnEtx => Sys2Proof.Machine.execDecIgnEtx s
  | .decIgnOther b => Sys2Proof.Machine.execDecIgnOther b s
  | .decIgnescAny b => Sys2Proof.Machine.execDecIgnescAny b s
  | .decPostAny b => Sys2Proof.Machine.execDecPostAny b s

end Sys2Proof.Machine
end

