-- ==== Sys2Proof/Machine/Step.lean ====
section
/-! DEFINITION. One step of the machine: the environment's next input, run to completion (00_scope.md R10). -/

namespace Sys2Proof.Machine

/-- One step: a host operation as one atomic transition (R10, R61), or a hardware reset (R260). With nothing
asked the core does nothing and keeps all its state (60_exceptions.md R249). -/
def step (s : State) : Host.Outcome State Fault Refusal :=
  match s.nextInput with
  | none => .next s
  | some (.request w, t) => exec (decodeHost w) t
  | some (.reset, t) => .next t.hardwareReset

/-- The state in which the very next step runs the instruction of the given bits. A request word is put first
in the queue. A decoder row runs only inside PROCESS, so its byte is put first in the receive stream, the
decoder is put in its key's state, and a PROCESS that takes that one byte is put first in the queue (log 10).
Bits that are no instruction change nothing. -/
def State.withFetchWord (s : State) (nbits w : Nat) : State :=
  match codeOfBits nbits w with
  | .ok (.host word) => s.askFirst word
  | .ok (.key k) =>
    match DecState.ofCode (keyCode k) with
    | some st => s.feedFirst st (keyByte k)
    | none => s
  | .error _ => s

end Sys2Proof.Machine
end

