-- ==== Sys2Proof/Machine/Wire.lean ====
section
/-! DEFINITION. Inbound frames and pseudo-operations, as a bus master and a host program write them
(30_encoding.md R85, R87, R103, R104). The machine does not use them: statements and tests do. -/

namespace Sys2Proof.Machine

/-- One payload byte as a sender puts it on the wire: after an escape byte, or bare (R87). -/
structure SentByte where
  escaped : Bool
  byte : Byte
  deriving DecidableEq, Repr

/-- The wire bytes of one payload byte. -/
def SentByte.wire (x : SentByte) : List Byte := if x.escaped then [Config.ESC, x.byte] else [x.byte]

/-- ETX and escape must be escaped; a sender may escape any other byte (R87). -/
abbrev SentByte.Legal (x : SentByte) : Prop := x.escaped = true ∨ (x.byte ≠ Config.ETX ∧ x.byte ≠ Config.ESC)

/-- The wire bytes of a payload. -/
def wirePayload (xs : List SentByte) : List Byte := xs.flatMap SentByte.wire

/-- `e(d)` of R104: 0x03 and 0x10 escaped, every other byte bare. -/
def escapeWhereNeeded (ds : List Byte) : List SentByte :=
  ds.map (fun d => { escaped := decide (d = Config.ETX ∨ d = Config.ESC), byte := d })

/-- The first five bytes of a frame to the node whose address byte is `a`, with command `cmd` (R85). -/
def frameHead (a cmd : Byte) : List Byte := [Config.PRE, Config.PRE, Config.STX, a, cmd]

/-- An inbound frame (R85). -/
def inboundFrame (a cmd : Byte) (xs : List SentByte) : List Byte := frameHead a cmd ++ wirePayload xs ++ [Config.ETX]

/-- `POLL_FRAME a` (R104). -/
def pollFrame (node : Byte) : List Byte := inboundFrame (addrByte node) Config.CMD_POLL []

/-- `T_FRAME a, d0 ... dk` (R104). -/
def setFrame (node : Byte) (ds : List Byte) : List Byte :=
  inboundFrame (addrByte node) Config.CMD_SET (escapeWhereNeeded ds)

/-- `FEED b0 ... bn`: the bytes arrive, and the next PROCESS takes exactly them (R103, R104). -/
def State.withFeed (s : State) (bs : List Byte) : State :=
  { s with
    rx := bs ++ s.rx, takes := bs.length :: s.takes
    inputs := .request (reqWord 0x3#4 0#4 0#16 0#8) :: s.inputs }

/-- `SET_BYTES p, v0, ..., vk`: one SET_BYTE word for each value, at rising positions (R104). DESIGN CHOICE, log 16:
no 16-bit `pos` spells a position above 65535, and here the position after 65535 is 0. -/
def setBytesWords (p : Pos) : List Byte → List ReqWord
  | [] => []
  | v :: vs => reqWord 0x7#4 0#4 p v :: setBytesWords (p + 1#16) vs

end Sys2Proof.Machine
end

