-- ==== Sys2Proof/Safety.lean ====
section
/-! DEFINITION. What holds between operations, and the views of a state that claims are stated in. -/

namespace Sys2Proof.Machine

/-- The state of the core itself: the tuple of 10_state.md R20. -/
structure CoreState where
  st : DecState
  cur : Nat
  addr : Byte
  rb : Memory
  tb : Memory
  te : Bool
  deriving DecidableEq, Repr

/-- A state's core tuple. -/
def State.core (s : State) : CoreState :=
  { st := s.st, cur := s.cur, addr := s.addr, rb := s.rb, tb := s.tb, te := s.te }

/-- `cur > 0` only in DecodeData, DecodeEscData and Preamble1 (R34, C16). -/
abbrev State.CursorClear (s : State) : Prop :=
  0 < s.cur → s.st = .decodeData ∨ s.st = .decodeEscData ∨ s.st = .preamble1

/-- Both buffers' contents are in canonical form and within their depths (R50, R123). -/
abbrev State.BuffersOk (s : State) : Prop :=
  (s.rb.wf ∧ s.rb.below s.params.rxBytes) ∧ (s.tb.wf ∧ s.tb.below s.params.txBytes)

/-- The invariants of R34 at operation boundaries, with the elaboration constraints of R264 and the form of the
buffers' contents. -/
abbrev State.Inv (s : State) : Prop :=
  s.params.Valid ∧ s.cur ≤ s.params.rxBytes ∧ s.addr.toNat ≤ Config.MAX_ADDRESS ∧ s.te = false ∧
    s.CursorClear ∧ s.BuffersOk

/-- The invariants of R34 as they hold between the decoder steps of a PROCESS, with the form of the buffers' contents. -/
abbrev State.DecoderInv (s : State) : Prop :=
  s.cur ≤ s.params.rxBytes ∧ s.addr.toNat ≤ Config.MAX_ADDRESS ∧ s.te = false ∧ s.CursorClear ∧ s.BuffersOk

/-- States an instance can reach from hardware reset: any environment (stream, requests, choices) may stand
around the reset core, and every step leads on. -/
inductive Reachable (p : Params) : State → Prop where
  | start (s : State) : s.params = p → s.core = (State.resetFor p).core → s.trace = [] → Reachable p s
  | next (s t : State) : Reachable p s → step s = .next t → Reachable p t

/-- A sequence of whole transmissions: TE_HIGH, some bytes, TE_LOW, any number of times (R152, R157). -/
inductive Transmissions : List TxEvent → Prop where
  | none : Transmissions []
  | more (sent : List Byte) (rest : List TxEvent) :
      Transmissions rest → Transmissions (.teHigh :: sent.map TxEvent.byte ++ .teLow :: rest)

/-- Two states that agree in everything but TB and the output trace (R51). -/
abbrev State.SameButTbAndTrace (s t : State) : Prop := t = { s with tb := t.tb, trace := t.trace }

/-- Two states that agree in everything but RB and the responses returned so far (R51). -/
abbrev State.SameButRbAndResponses (s t : State) : Prop := t = { s with rb := t.rb, responses := t.responses }

/-- The row `i` is the one for byte `b` in state `s`: its encoding is the key of `s.st` and `b`, that key decodes
to it and the opcode table's first matching row is its row, it runs to `t`, and so does the decoder step of `b`
(43_decoder.md R170; each row's "Encoding", "Pseudocode" and "Effects"). -/
def RowRuns (i : Instr) (b : Byte) (s t : State) : Prop :=
  encode i = .key (keyOf s.st.code b) ∧ decode s.rowContext (.key (keyOf s.st.code b)) = .ok i ∧
    tableRow s.rowContext (.key (keyOf s.st.code b)) = some i.mnemonic ∧
    exec i s = .next t ∧ decoderStep b s = t

/-- The events of one encoder run whose write let `sent` through (R152). -/
def transmission (sent : List Byte) : List TxEvent := .teHigh :: sent.map TxEvent.byte ++ [.teLow]

/-- The next PROCESS takes exactly the bytes `bs` from the front of the receive stream (R103, R214). -/
abbrev State.Receives (s : State) (bs rest : List Byte) (ts : List Nat) : Prop :=
  s.rx = bs ++ rest ∧ s.takes = bs.length :: ts

end Sys2Proof.Machine
end

