-- ==== Sys2Proof/Certificates/Slice0/Obligations.lean ====
section
/-! DEFINITION. The statements for the provers. Each docstring names the rules it formalises.

How the environment stands in a state is the model's choice (DESIGN CHOICE), and a statement that names one of these
fields rests on its log entry: `inputs` (log 2), `rx` (log 3), `takes` and `available`, with `Receives` (log 4),
`sinks` and `sinkOutcome` (log 5), `responses` (log 7), `txs` (log 8). The value 0x50 of `'P'` is PRESUMED (log 13). -/

open Sys2Proof Sys2Proof.Machine

/-! ## Encodings -/

/-- 30_encoding.md R91 to R93, R99: decoding the encoding of a well-formed instruction gives it back, every
operand at every value, in every context that meets the row's condition. -/
def Obligations.DecodeOfEncodeIsTheInstruction : Prop :=
  ∀ (c : RowContext) (i : Instr), i.wellFormed = true → i.selectedIn c = true → decode c (encode i) = .ok i

/-- 30_encoding.md R91 to R93, R99: encoding what a word or key decodes to gives it back, and what is decoded is
well formed and meets its row's condition. -/
def Obligations.EncodeOfDecodeIsTheCode : Prop :=
  ∀ (c : RowContext) (k : Code) (i : Instr),
    decode c k = .ok i → encode i = k ∧ i.wellFormed = true ∧ i.selectedIn c = true

/-- 43_decoder.md R194: for every state, byte and `cur`, exactly one row applies, and it keeps `cur` in range.
(That the next state is one of the 11 is its type, R101.) -/
def Obligations.ExactlyOneRowAppliesToEveryByte : Prop :=
  (∀ (c : RowContext) (st : DecState) (b : Byte), ∃ i : Instr,
    (i.wellFormed = true ∧ i.selectedIn c = true ∧ encode i = .key (keyOf st.code b)) ∧
    ∀ j : Instr, j.wellFormed = true → j.selectedIn c = true → encode j = .key (keyOf st.code b) → j = i) ∧
  ∀ (s : State) (b : Byte), s.cur ≤ s.params.rxBytes → (decoderStep b s).cur ≤ s.params.rxBytes

/-- 30_encoding.md R99 and the ILLEGAL row's note: what a word or key decodes to is the first row of
spec/opcode_table.json that matches it under mask and condition; a key that decodes to nothing matches no row. -/
def Obligations.DecodeFollowsTheOpcodeTable : Prop :=
  ∀ (c : RowContext) (k : Code),
    tableRow c k = match decode c k with
      | .ok i => some i.mnemonic
      | .error _ => none

/-- 95_test_vectors.md 2.6 and the keys of 43_decoder.md: words written out from the encodings (0x450: log 13).
30_encoding.md R101: the codes 11 to 15 name no state, and their keys are rejected by name. -/
def Obligations.WordsWrittenOutDecodeAsListed : Prop :=
  decodeHost 0x10000001#32 = .init 0#16 1#8 ∧ decodeHost 0x200000BE#32 = .setAddress 0#16 190#8 ∧
  decodeHost 0x30000000#32 = .process 0#16 0#8 ∧ decodeHost 0x40002F00#32 = .getBit 47#16 0#8 ∧
  decodeHost 0x50FFFF00#32 = .getByte 65535#16 0#8 ∧ decodeHost 0x60001701#32 = .setBit 23#16 1#8 ∧
  decodeHost 0x700002AA#32 = .setByte 2#16 0xAA#8 ∧ decodeHost 0x80000000#32 = .transmit 0#16 0#8 ∧
  decodeHost 0x41000000#32 = .illegal 0x41000000#32 ∧
  decode ⟨1#8, true⟩ (.key 0x342#12) = .ok (.decAddrMatch 0x42#8) ∧
  decode ⟨1#8, true⟩ (.key 0x450#12) = .ok .decCmdPoll ∧
  decode ⟨1#8, true⟩ (.key 0x607#12) = .ok (.decDataStore 7#8) ∧
  decode ⟨1#8, false⟩ (.key 0x607#12) = .ok (.decDataFull 7#8) ∧
  decode ⟨1#8, true⟩ (.key 0xB00#12) = .error (.noSuchState 11#4) ∧
  decode ⟨1#8, true⟩ (.key 0xFFF#12) = .error (.noSuchState 15#4)

/-- 30_encoding.md R83, R84: for every legal address the encoder's address byte is `0x41 + addr`, and in Address the
decoder's test, in the integers, accepts exactly that byte and no byte up to 0x40. -/
def Obligations.AddressByteAndAddressTestAgree : Prop :=
  ∀ (s : State) (b : Byte), s.addr.toNat ≤ 190 →
    ∃ a : Byte, (frame s)[3]? = some a ∧ a.toNat = 0x41 + s.addr.toNat ∧
      (s.st = .address →
        ((decoderStep b s).st = .decodeCommand ↔ (b.toNat : Int) - 0x41 = s.addr.toNat) ∧
        ((decoderStep b s).st = .decodeCommand ↔ b = a) ∧
        (b.toNat ≤ 0x40 → (decoderStep b s).st ≠ .decodeCommand))

/-- 30_encoding.md R97: a bit position's byte index is its bits [15:3] and its bit index its bits [2:0]; the mask
has exactly that bit. -/
def Obligations.BitPositionSplitsIntoByteAndBit : Prop :=
  ∀ pos : Pos,
    byteIndex pos = (pos.extractLsb' 3 13).toNat ∧ bitIndex pos = (pos.extractLsb' 0 3).toNat ∧
    ∀ k, k < 8 → (bitMask (bitIndex pos)).getLsbD k = decide (k = bitIndex pos)

/-! ## The machine -/

/-- 00_scope.md R10: a step whose next input is a request word runs the instruction the word decodes to, with the
word taken off the queue and nothing else changed; a word put first in the queue is the next one (log 2).
60_exceptions.md R249: with nothing asked the core does nothing and keeps all its state. -/
def Obligations.StepRunsTheDecodedInstruction : Prop :=
  (∀ (s : State) (w : ReqWord) (rest : List HostInput),
    s.inputs = .request w :: rest → step s = exec (decodeHost w) { s with inputs := rest }) ∧
  (∀ (s : State) (w : ReqWord), step (s.askFirst w) = exec (decodeHost w) s) ∧
  ∀ s : State, s.inputs = [] → step s = .next s

/-- 43_decoder.md R170, 44_host_operations.md R214: a PROCESS that takes one byte (log 4) runs the row that the key of
`st` and the byte decodes to, and then responds. -/
def Obligations.ProcessOfOneByteRunsTheDecodedRow : Prop :=
  ∀ (s : State) (pos : Pos) (val b : Byte) (rest : List Byte) (ts : List Nat), s.Receives [b] rest ts →
    ∃ i t, decode s.rowContext (.key (keyOf s.st.code b)) = .ok i ∧
      exec i { s with rx := rest, takes := ts, takeDraws := s.takeDraws + 1 } = .next t ∧
      exec (.process pos val) s = .next { t with
        responses := t.responses ++ [⟨if t.txs = .txFail then .txFail else .ok, 0x00#8, [b]⟩] }

/-- 43_decoder.md R170, 30_encoding.md R98: the decoder step of a byte runs the row that R98's classes select. -/
def Obligations.DecoderStepRunsTheSelectedRow : Prop :=
  ∀ (s : State) (b : Byte), exec (classify s.rowContext s.st b) s = .next (decoderStep b s)

/-- 00_scope.md R9 ("No rule of this spec refuses"), 60_exceptions.md R231: every instruction, in every state,
answers a next state, and so does every step. -/
def Obligations.EveryInstructionAndStepAnswersANextState : Prop :=
  (∀ (i : Instr) (s : State), ∃ t, exec i s = .next t) ∧ ∀ s : State, ∃ t, step s = .next t

/-- 10_state.md R34: every step keeps the invariants of operation boundaries. -/
def Obligations.StepKeepsTheInvariant : Prop :=
  ∀ s t : State, s.Inv → step s = .next t → t.Inv

/-- 10_state.md R34, 43_decoder.md R194: every decoder step keeps the invariants that hold between decoder steps. -/
def Obligations.DecoderStepKeepsTheInvariant : Prop :=
  ∀ (s : State) (b : Byte), s.DecoderInv → (decoderStep b s).DecoderInv

/-- 10_state.md R20, R34: the state after reset meets the invariants, for every instance the spec admits, and for
the instance of `State.reset` (log 1). -/
def Obligations.ResetMeetsTheInvariant : Prop :=
  (∀ p : Params, p.Valid → (State.resetFor p).Inv) ∧ State.reset.Inv

/-- 10_state.md R34 "in every reachable state": from the reset core in any environment, through any steps. -/
def Obligations.ReachableStatesMeetTheInvariant : Prop :=
  ∀ (p : Params) (s : State), p.Valid → Reachable p s → s.Inv ∧ s.params = p

/-- 40_frame_buffers.md R123, 10_state.md R32: no step changes a parameter, so no step resizes a buffer. -/
def Obligations.NoStepChangesAParameterOrADepth : Prop :=
  ∀ s t : State, step s = .next t → t.params = s.params ∧ ∀ b : Buf, t.bufLen b = s.bufLen b

/-- 70_reset_and_hazards.md R264: an instance is built exactly when it meets the elaboration constraints. -/
def Obligations.InstanceIsBuiltExactlyWithinTheConstraints : Prop :=
  ∀ p : Params,
    (p.nodeAddressCfg.toNat ≤ 190 ∧ p.rxBytes ≤ 4096 ∧ p.txBytes ≤ 4096 →
      State.build p = .next (State.resetFor p)) ∧
    (190 < p.nodeAddressCfg.toNat ∨ 4096 < p.rxBytes ∨ 4096 < p.txBytes →
      State.build p = .refused .instanceOutsideSpec)

/-- 70_reset_and_hazards.md R260: what hardware reset leaves, from every state (reset as an input: log 2). -/
def Obligations.HardwareResetLeavesTheResetState : Prop :=
  ∀ (s : State) (rest : List HostInput), s.inputs = .reset :: rest →
    ∃ t, step s = .next t ∧ t.st = .preamble1 ∧ t.cur = 0 ∧ t.addr = s.params.nodeAddressCfg ∧
      (∀ i, i < s.params.rxBytes → t.memRead .rb i = some 0x00#8) ∧
      (∀ i, i < s.params.txBytes → t.memRead .tb i = some 0x00#8) ∧
      t.te = false ∧ t.trace = [] ∧ t.rx = s.rx ∧ t.params = s.params ∧ t.inputs = rest

/-- 70_reset_and_hazards.md R261: reset leaves the core state that INIT NODE_ADDRESS_CFG leaves from any state;
the only difference is the empty trace. -/
def Obligations.ResetAgreesWithInit : Prop :=
  ∀ (s u : State) (rest : List HostInput) (pos : Pos),
    s.inputs = .reset :: rest → u.params = s.params → s.params.Valid →
    ∃ t v, step s = .next t ∧ exec (.init pos s.params.nodeAddressCfg) u = .next v ∧ t.core = v.core ∧
      t.trace = [] ∧ v.trace = u.trace

/-! ## Host operations -/

/-- 44_host_operations.md R210: INIT. -/
def Obligations.InitReinitialisesTheCore : Prop :=
  ∀ (s : State) (pos : Pos) (val : Byte),
    decodeHost (reqWord 0x1#4 0#4 pos val) = .init pos val ∧
    (190 < val.toNat → exec (.init pos val) s =
      .next { s with responses := s.responses ++ [⟨.reject, 0x00#8, []⟩] }) ∧
    (val.toNat ≤ 190 → ∃ t, exec (.init pos val) s = .next t ∧
      t = { s with
        st := .preamble1, cur := 0, addr := val, rb := t.rb, tb := t.tb, te := false
        responses := s.responses ++ [⟨.ok, 0x00#8, []⟩] } ∧
      (∀ i, i < s.params.rxBytes → t.memRead .rb i = some 0x00#8) ∧
      (∀ i, i < s.params.txBytes → t.memRead .tb i = some 0x00#8))

/-- 44_host_operations.md R212: SET_ADDRESS. -/
def Obligations.SetAddressWritesOnlyTheAddress : Prop :=
  ∀ (s : State) (pos : Pos) (val : Byte),
    decodeHost (reqWord 0x2#4 0#4 pos val) = .setAddress pos val ∧
    (190 < val.toNat → exec (.setAddress pos val) s =
      .next { s with responses := s.responses ++ [⟨.reject, 0x00#8, []⟩] }) ∧
    (val.toNat ≤ 190 → exec (.setAddress pos val) s =
      .next { s with addr := val, responses := s.responses ++ [⟨.ok, 0x00#8, []⟩] })

/-- 44_host_operations.md R214: PROCESS takes the bytes available (the draw: log 4) from the front of the stream, feeds
them to the decoder in order, one step each, and reports TX_FAIL exactly when one of the steps did. -/
def Obligations.ProcessFeedsTheAvailableBytesInOrder : Prop :=
  ∀ (s : State) (pos : Pos) (val : Byte),
    decodeHost (reqWord 0x3#4 0#4 pos val) = .process pos val ∧
    ∃ (bs rest : List Byte) (status : Status) (t : State),
      s.rx = bs ++ rest ∧ bs.length = min s.available s.rx.length ∧
      (∀ k ts, s.takes = k :: ts → k ≤ s.rx.length → bs.length = k) ∧
      exec (.process pos val) s = .next t ∧
      (let s0 : State := { s with rx := rest, takes := s.takes.tail, takeDraws := s.takeDraws + 1 }
       t = { bs.foldl (fun u b => decoderStep b u) s0 with
         responses := s.responses ++ [⟨status, 0x00#8, bs⟩] } ∧
       (status = .txFail ↔
         ∃ n, n < bs.length ∧ ((bs.take (n + 1)).foldl (fun u b => decoderStep b u) s0).txs = .txFail) ∧
       (status = .ok ∨ status = .txFail))

/-- 41_accessors.md R130: GET_BIT. -/
def Obligations.GetBitReadsOneBitOfRb : Prop :=
  ∀ (s : State) (pos : Pos) (val : Byte),
    decodeHost (reqWord 0x4#4 0#4 pos val) = .getBit pos val ∧
    (pos.toNat < 8 * s.params.rxBytes → ∃ b, s.memRead .rb (pos.toNat / 8) = some b ∧
      exec (.getBit pos val) s = .next { s with
        responses := s.responses ++ [⟨.ok, if b.getLsbD (pos.toNat % 8) then 0x01#8 else 0x00#8, []⟩] }) ∧
    (8 * s.params.rxBytes ≤ pos.toNat → exec (.getBit pos val) s =
      .next { s with responses := s.responses ++ [⟨.outOfRange, 0x00#8, []⟩] })

/-- 41_accessors.md R132: GET_BYTE. -/
def Obligations.GetByteReadsOneByteOfRb : Prop :=
  ∀ (s : State) (pos : Pos) (val : Byte),
    decodeHost (reqWord 0x5#4 0#4 pos val) = .getByte pos val ∧
    (pos.toNat < s.params.rxBytes → ∃ b, s.memRead .rb pos.toNat = some b ∧
      exec (.getByte pos val) s = .next { s with responses := s.responses ++ [⟨.ok, b, []⟩] }) ∧
    (s.params.rxBytes ≤ pos.toNat → exec (.getByte pos val) s =
      .next { s with responses := s.responses ++ [⟨.outOfRange, 0x00#8, []⟩] })

/-- 41_accessors.md R133 (20_memory.md R54): GET_BIT at `8i + k` returns bit `k` of what GET_BYTE at `i` returns,
and fails exactly when it fails. -/
def Obligations.BitReadsAgreeWithByteReads : Prop :=
  ∀ (s : State) (p q : Pos) (v w : Byte), q.toNat = p.toNat / 8 →
    (p.toNat < 8 * s.params.rxBytes → ∃ d : Byte,
      exec (.getByte q w) s = .next { s with responses := s.responses ++ [⟨.ok, d, []⟩] } ∧
      exec (.getBit p v) s = .next { s with
        responses := s.responses ++ [⟨.ok, (d >>> (p.toNat % 8)) &&& 1#8, []⟩] }) ∧
    (exec (.getBit p v) s = .next { s with responses := s.responses ++ [⟨.outOfRange, 0x00#8, []⟩] } ↔
      exec (.getByte q w) s = .next { s with responses := s.responses ++ [⟨.outOfRange, 0x00#8, []⟩] })

/-- 41_accessors.md R134: SET_BIT writes the one bit, and every failure leaves all but the response unchanged. -/
def Obligations.SetBitWritesOneBitOfTb : Prop :=
  ∀ (s : State) (pos : Pos) (val : Byte), s.tb.wf →
    decodeHost (reqWord 0x6#4 0#4 pos val) = .setBit pos val ∧
    (val.toNat ≤ 1 → pos.toNat < 8 * s.params.txBytes → ∃ t b b',
      exec (.setBit pos val) s = .next t ∧
      t = { s with tb := t.tb, responses := s.responses ++ [⟨.ok, 0x00#8, []⟩] } ∧
      s.memRead .tb (pos.toNat / 8) = some b ∧ t.memRead .tb (pos.toNat / 8) = some b' ∧
      (∀ k, k < 8 → b'.getLsbD k = if k = pos.toNat % 8 then decide (val = 1#8) else b.getLsbD k) ∧
      ∀ j, j ≠ pos.toNat / 8 → t.memRead .tb j = s.memRead .tb j) ∧
    (1 < val.toNat → exec (.setBit pos val) s =
      .next { s with responses := s.responses ++ [⟨.illegal, 0x00#8, []⟩] }) ∧
    (val.toNat ≤ 1 → s.params.txBytes < (pos.toNat + 7) / 8 → exec (.setBit pos val) s =
      .next { s with responses := s.responses ++ [⟨.reject, 0x00#8, []⟩] }) ∧
    (val.toNat ≤ 1 → (pos.toNat + 7) / 8 ≤ s.params.txBytes → s.params.txBytes ≤ pos.toNat / 8 →
      exec (.setBit pos val) s =
        .next { s with responses := s.responses ++ [⟨.outOfRange, 0x00#8, []⟩] })

/-- 41_accessors.md R135: SET_BIT's outcome by range of `pos`, exact at the boundary `8*TX_BYTES`. -/
def Obligations.SetBitOutcomeByRangeOfPosition : Prop :=
  ∀ (s : State) (pos : Pos) (val : Byte), val.toNat ≤ 1 →
    (pos.toNat < 8 * s.params.txBytes → ∃ t, exec (.setBit pos val) s = .next t ∧
      t.responses = s.responses ++ [⟨.ok, 0x00#8, []⟩]) ∧
    (pos.toNat = 8 * s.params.txBytes → exec (.setBit pos val) s =
      .next { s with responses := s.responses ++ [⟨.outOfRange, 0x00#8, []⟩] }) ∧
    (8 * s.params.txBytes < pos.toNat → exec (.setBit pos val) s =
      .next { s with responses := s.responses ++ [⟨.reject, 0x00#8, []⟩] })

/-- 41_accessors.md R136: SET_BYTE, with the strict boundary of the source. -/
def Obligations.SetByteWritesOneByteOfTb : Prop :=
  ∀ (s : State) (pos : Pos) (val : Byte), s.tb.wf →
    decodeHost (reqWord 0x7#4 0#4 pos val) = .setByte pos val ∧
    (pos.toNat < s.params.txBytes → ∃ t, exec (.setByte pos val) s = .next t ∧
      t = { s with tb := t.tb, responses := s.responses ++ [⟨.ok, 0x00#8, []⟩] } ∧
      t.memRead .tb pos.toNat = some val ∧
      ∀ j, j ≠ pos.toNat → t.memRead .tb j = s.memRead .tb j) ∧
    (pos.toNat = s.params.txBytes → exec (.setByte pos val) s =
      .next { s with responses := s.responses ++ [⟨.outOfRange, 0x00#8, []⟩] }) ∧
    (s.params.txBytes < pos.toNat → exec (.setByte pos val) s =
      .next { s with responses := s.responses ++ [⟨.reject, 0x00#8, []⟩] })

/-- 41_accessors.md R137: an accessor changes nothing but TB and the response record, a failing one and a read
change nothing but the response record. -/
def Obligations.FailingAccessorsAndReadsChangeNothing : Prop :=
  ∀ (s : State) (pos : Pos) (val : Byte) (i : Instr),
    i = .getBit pos val ∨ i = .getByte pos val ∨ i = .setBit pos val ∨ i = .setByte pos val →
    ∃ t r, exec i s = .next t ∧ t = { s with tb := t.tb, responses := s.responses ++ [r] } ∧
      (r.status ≠ .ok ∨ i = .getBit pos val ∨ i = .getByte pos val → t.tb = s.tb)

/-- 41_accessors.md R138: the bit SET_BIT wrote is at bit `pos mod 8` of frame offset `5 + pos/8`, and every other
byte of the frame, and every other bit of that one, is as it was. -/
def Obligations.SetBitIsSeenInTheNextFrame : Prop :=
  ∀ (s : State) (pos : Pos) (val : Byte), s.tb.wf → val.toNat ≤ 1 → pos.toNat < 8 * s.params.txBytes →
    ∃ t b b', exec (.setBit pos val) s = .next t ∧
      (frame s)[5 + pos.toNat / 8]? = some b ∧ (frame t)[5 + pos.toNat / 8]? = some b' ∧
      (∀ k, k < 8 → b'.getLsbD k = if k = pos.toNat % 8 then decide (val = 1#8) else b.getLsbD k) ∧
      ∀ n, n ≠ 5 + pos.toNat / 8 → (frame t)[n]? = (frame s)[n]?

/-- 42_encoder.md R151, 30_encoding.md R86, R88, R153: the outbound frame, byte by byte, TB verbatim. -/
def Obligations.FrameIsTheListedBytes : Prop :=
  ∀ s : State, s.addr.toNat ≤ 190 →
    (frame s).length = s.params.txBytes + 6 ∧
    (frame s)[0]? = some 0xFF#8 ∧ (frame s)[1]? = some 0xFF#8 ∧ (frame s)[2]? = some 0x02#8 ∧
    (∃ a, (frame s)[3]? = some a ∧ a.toNat = 0x41 + s.addr.toNat) ∧ (frame s)[4]? = some 0x52#8 ∧
    (∀ i, i < s.params.txBytes → (frame s)[5 + i]? = s.memRead .tb i) ∧
    (frame s)[5 + s.params.txBytes]? = some 0x03#8

/-- 42_encoder.md R152, R156 to R158: TRANSMIT raises TE, lets the frame or its first `k` bytes through, lowers TE
on every path, and reports the outcome (the draw: log 5). -/
def Obligations.TransmitSendsTheFrameOrItsFirstBytes : Prop :=
  ∀ (s : State) (pos : Pos) (val : Byte),
    decodeHost (reqWord 0x8#4 0#4 pos val) = .transmit pos val ∧
    ∃ t, exec (.transmit pos val) s = .next t ∧
      (s.sinkOutcome = .ok → t = { s with
        te := false, trace := s.trace ++ transmission (frame s)
        sinks := s.sinks.tail, sinkDraws := s.sinkDraws + 1
        responses := s.responses ++ [⟨.ok, 0x00#8, []⟩] }) ∧
      (∀ k, s.sinkOutcome = .fail k → t = { s with
        te := false, trace := s.trace ++ transmission ((frame s).take k)
        sinks := s.sinks.tail, sinkDraws := s.sinkDraws + 1
        responses := s.responses ++ [⟨.txFail, 0x00#8, []⟩] })

/-- 44_host_operations.md R217, R218: a word with a reserved bit set, or with no operation's code, is ILLEGAL and
changes nothing but the response record: no byte of the stream is consumed. -/
def Obligations.IllegalWordsOnlyRespond : Prop :=
  ∀ (s : State) (w : ReqWord) (rest : List HostInput), s.inputs = .request w :: rest →
    (w.extractLsb' 24 4 ≠ 0#4 ∨ w.extractLsb' 28 4 = 0#4 ∨ 9 ≤ (w.extractLsb' 28 4).toNat) →
    decodeHost w = .illegal w ∧
    exec (.illegal w) { s with inputs := rest } =
      .next { s with inputs := rest, responses := s.responses ++ [⟨.illegal, 0x00#8, []⟩] } ∧
    step s = .next { s with inputs := rest, responses := s.responses ++ [⟨.illegal, 0x00#8, []⟩] }

/-- 30_encoding.md R93: a field an operation does not use is ignored, whatever its value. -/
def Obligations.UnusedFieldsAreIgnored : Prop :=
  ∀ (s : State) (p p' : Pos) (v v' : Byte),
    exec (.init p v) s = exec (.init p' v) s ∧ exec (.setAddress p v) s = exec (.setAddress p' v) s ∧
    exec (.process p v) s = exec (.process p' v') s ∧ exec (.getBit p v) s = exec (.getBit p v') s ∧
    exec (.getByte p v) s = exec (.getByte p v') s ∧ exec (.transmit p v) s = exec (.transmit p' v') s

/-- 30_encoding.md R104 (R103): running the words of `SET_BYTES p, v0, ..., vk` writes the values at rising
indices and changes nothing else but the records and the queue. -/
def Obligations.SetBytesWritesSuccessiveBytes : Prop :=
  ∀ (s : State) (p : Pos) (vs : List Byte) (rest : List HostInput), s.Inv →
    p.toNat + vs.length ≤ s.params.txBytes →
    s.inputs = (setBytesWords p vs).map HostInput.request ++ rest →
    ∃ t, Sys2Proof.core.run vs.length s = .next t ∧
      t = { s with tb := t.tb, responses := t.responses, inputs := rest } ∧
      (∀ i, i < vs.length → t.memRead .tb (p.toNat + i) = vs[i]?) ∧
      ∀ j, (j < p.toNat ∨ p.toNat + vs.length ≤ j) → t.memRead .tb j = s.memRead .tb j

/-! ## Decoder rows -/

/-- 43_decoder.md R171, R172: Preamble1. -/
def Obligations.PreambleOneRowsClearTheCursor : Prop :=
  ∀ (s : State) (b : Byte), s.st = .preamble1 →
    RowRuns .decP1Pre 0xFF#8 s { s with cur := 0, st := .preamble2, txs := .none } ∧
    (b ≠ 0xFF#8 → RowRuns (.decP1Other b) b s { s with cur := 0, st := .preamble1, txs := .none })

/-- 43_decoder.md R173 to R176: Preamble2 and Preamble3. A third 0xFF goes back to Preamble1. -/
def Obligations.PreambleTwoAndThreeRowsMoveTheState : Prop :=
  ∀ (s : State) (b : Byte),
    (s.st = .preamble2 →
      RowRuns .decP2Pre 0xFF#8 s { s with st := .preamble3, txs := .none } ∧
      (b ≠ 0xFF#8 → RowRuns (.decP2Other b) b s { s with st := .preamble1, txs := .none })) ∧
    (s.st = .preamble3 →
      RowRuns .decP3Stx 0x02#8 s { s with st := .address, txs := .none } ∧
      (b ≠ 0x02#8 → RowRuns (.decP3Other b) b s { s with st := .preamble1, txs := .none }))

/-- 43_decoder.md R177, R178: Address. -/
def Obligations.AddressRowsFilterByNodeAddress : Prop :=
  ∀ (s : State) (b : Byte), s.st = .address →
    ((b.toNat : Int) - 0x41 = s.addr.toNat →
      RowRuns (.decAddrMatch b) b s { s with st := .decodeCommand, txs := .none }) ∧
    ((b.toNat : Int) - 0x41 ≠ s.addr.toNat →
      RowRuns (.decAddrOther b) b s { s with st := .ignoreCommand, txs := .none })

/-- 43_decoder.md R179, R181: DecodeCommand, `'T'` and unknown commands, those but 0x54 and `'P'` (0x50: log 13). -/
def Obligations.CommandRowsChooseTheFrameKind : Prop :=
  ∀ (s : State) (b : Byte), s.st = .decodeCommand →
    RowRuns .decCmdSet 0x54#8 s { s with st := .decodeData, txs := .none } ∧
    (b ≠ 0x54#8 → b ≠ 0x50#8 → RowRuns (.decCmdOther b) b s { s with st := .postambleOther, txs := .none })

/-- 43_decoder.md R180: DecodeCommand, `'P'`: one encoder run, then Preamble1 whatever the sink does.
(The outcome: log 5; `'P'` = 0x50: log 13.) -/
def Obligations.PollRowRunsTheEncoder : Prop :=
  ∀ s : State, s.st = .decodeCommand → ∃ t, RowRuns .decCmdPoll 0x50#8 s t ∧
    (s.sinkOutcome = .ok → t = { s with
      st := .preamble1, te := false, txs := .ok, trace := s.trace ++ transmission (frame s)
      sinks := s.sinks.tail, sinkDraws := s.sinkDraws + 1 }) ∧
    (∀ k, s.sinkOutcome = .fail k → t = { s with
      st := .preamble1, te := false, txs := .txFail, trace := s.trace ++ transmission ((frame s).take k)
      sinks := s.sinks.tail, sinkDraws := s.sinkDraws + 1 })

/-- 43_decoder.md R182, R189 to R192: the rows of a foreign frame. -/
def Obligations.ForeignFrameRowsOnlyMoveTheState : Prop :=
  ∀ (s : State) (b : Byte),
    (s.st = .ignoreCommand → RowRuns (.decIgncmdAny b) b s { s with st := .ignoreData, txs := .none }) ∧
    (s.st = .ignoreData →
      RowRuns .decIgnEsc 0x10#8 s { s with st := .ignoreEscData, txs := .none } ∧
      RowRuns .decIgnEtx 0x03#8 s { s with st := .preamble1, txs := .none } ∧
      (b ≠ 0x10#8 → b ≠ 0x03#8 → RowRuns (.decIgnOther b) b s { s with txs := .none })) ∧
    (s.st = .ignoreEscData → RowRuns (.decIgnescAny b) b s { s with st := .ignoreData, txs := .none })

/-- 43_decoder.md R183, R184: the escape and ETX bytes of a payload; `cur` and RB keep their values. -/
def Obligations.EscapeAndEtxRowsStoreNothing : Prop :=
  ∀ s : State, s.st = .decodeData →
    RowRuns .decDataEsc 0x10#8 s { s with st := .decodeEscData, txs := .none } ∧
    RowRuns .decDataEtx 0x03#8 s { s with st := .preamble1, txs := .none }

/-- 43_decoder.md R185, R186: a data byte is stored at `cur` while there is room, and dropped otherwise. -/
def Obligations.DataRowsStoreOrDropTheByte : Prop :=
  ∀ (s : State) (b : Byte), s.rb.wf → s.st = .decodeData → b ≠ 0x10#8 → b ≠ 0x03#8 →
    (s.cur < s.params.rxBytes → ∃ t, RowRuns (.decDataStore b) b s t ∧
      t = { s with rb := t.rb, cur := s.cur + 1, txs := .none } ∧
      t.memRead .rb s.cur = some b ∧ ∀ j, j ≠ s.cur → t.memRead .rb j = s.memRead .rb j) ∧
    (s.params.rxBytes ≤ s.cur → RowRuns (.decDataFull b) b s { s with txs := .none })

/-- 43_decoder.md R187, R188: the byte after an escape is stored literally while there is room, and dropped
otherwise; 0x03 does not end the frame. -/
def Obligations.EscapedDataRowsStoreOrDropTheByte : Prop :=
  ∀ (s : State) (b : Byte), s.rb.wf → s.st = .decodeEscData →
    (s.cur < s.params.rxBytes → ∃ t, RowRuns (.decEscStore b) b s t ∧
      t = { s with rb := t.rb, cur := s.cur + 1, st := .decodeData, txs := .none } ∧
      t.memRead .rb s.cur = some b ∧ ∀ j, j ≠ s.cur → t.memRead .rb j = s.memRead .rb j) ∧
    (s.params.rxBytes ≤ s.cur → RowRuns (.decEscFull b) b s { s with st := .decodeData, txs := .none })

/-- 43_decoder.md R193: PostambleOther. -/
def Obligations.PostambleRowDropsOneByte : Prop :=
  ∀ (s : State) (b : Byte), s.st = .postambleOther →
    RowRuns (.decPostAny b) b s { s with st := .preamble1, txs := .none }

/-! ## Byte sequences and whole frames -/

/-- 43_decoder.md R195: `FF^n 02` from Preamble1 reaches Address if and only if `n mod 3 = 2`, and ends in
Preamble1 otherwise, with RB and the trace unchanged. -/
def Obligations.PreambleRunSynchronisesExactlyModuloThree : Prop :=
  ∀ (s : State) (n : Nat) (pos : Pos) (val : Byte) (rest : List Byte) (ts : List Nat),
    s.st = .preamble1 → s.Receives (List.replicate n 0xFF#8 ++ [0x02#8]) rest ts →
    ∃ t, exec (.process pos val) s = .next t ∧ (t.st = .address ↔ n % 3 = 2) ∧
      (n % 3 ≠ 2 → t.st = .preamble1) ∧ t.rb = s.rb ∧ t.trace = s.trace

/-- 43_decoder.md R195: a sequence without `FF FF 02` never leaves the preamble states and changes neither RB nor
the trace. -/
def Obligations.WithoutAPreambleNothingHappens : Prop :=
  ∀ (s : State) (bs : List Byte) (pos : Pos) (val : Byte) (rest : List Byte) (ts : List Nat),
    s.st = .preamble1 → s.Receives bs rest ts → ¬ [0xFF#8, 0xFF#8, 0x02#8] <:+: bs →
    ∃ t, exec (.process pos val) s = .next t ∧
      (t.st = .preamble1 ∨ t.st = .preamble2 ∨ t.st = .preamble3) ∧ t.rb = s.rb ∧ t.trace = s.trace

/-- 43_decoder.md R196: a foreign frame whose payload escapes 0x03 and 0x10 is skipped to its ETX, whatever else
the payload holds; RB, TB and the trace are unchanged and `cur` is 0. -/
def Obligations.ForeignFrameIsSkipped : Prop :=
  ∀ (s : State) (a cmd : Byte) (xs : List SentByte) (pos : Pos) (val : Byte) (rest : List Byte) (ts : List Nat),
    s.st = .preamble1 → (a.toNat : Int) - 0x41 ≠ s.addr.toNat → (∀ x ∈ xs, x.Legal) →
    s.Receives (inboundFrame a cmd xs) rest ts →
    ∃ t, exec (.process pos val) s = .next t ∧
      t = { s with
        cur := 0, txs := .none, rx := rest, takes := ts, takeDraws := s.takeDraws + 1
        responses := s.responses ++ [⟨.ok, 0x00#8, inboundFrame a cmd xs⟩] }

/-- 43_decoder.md R199: a set-data frame to this node leaves its payload in RB, left-aligned, cut off at the
depth, with every other byte of RB as it was. -/
def Obligations.SetDataFrameFillsRb : Prop :=
  ∀ (s : State) (xs : List SentByte) (pos : Pos) (val : Byte) (rest : List Byte) (ts : List Nat),
    s.Inv → s.st = .preamble1 → (∀ x ∈ xs, x.Legal) →
    s.Receives (inboundFrame (addrByte s.addr) 0x54#8 xs) rest ts →
    ∃ t, exec (.process pos val) s = .next t ∧
      t = { s with
        rb := t.rb, cur := min xs.length s.params.rxBytes, txs := .none
        rx := rest, takes := ts, takeDraws := s.takeDraws + 1
        responses := s.responses ++ [⟨.ok, 0x00#8, inboundFrame (addrByte s.addr) 0x54#8 xs⟩] } ∧
      ∀ i, i < s.params.rxBytes →
        t.memRead .rb i = if i < xs.length then xs[i]?.map SentByte.byte else s.memRead .rb i

/-- 43_decoder.md R200, 42_encoder.md R159: a poll frame to this node (`'P'` = 0x50: log 13) gives exactly one encoder
run, carrying TB as it stands, and leaves RB unchanged and `cur` 0. -/
def Obligations.PollFrameIsAnsweredOnce : Prop :=
  ∀ (s : State) (pos : Pos) (val : Byte) (rest : List Byte) (ts : List Nat),
    s.Inv → s.st = .preamble1 → s.Receives (pollFrame s.addr) rest ts →
    ∃ t, exec (.process pos val) s = .next t ∧
      t = { s with
        cur := 0, txs := .none, rx := rest, takes := ts, takeDraws := s.takeDraws + 1
        trace := t.trace, sinks := s.sinks.tail, sinkDraws := s.sinkDraws + 1, responses := t.responses } ∧
      (s.sinkOutcome = .ok → t.trace = s.trace ++ transmission (frame s) ∧
        t.responses = s.responses ++ [⟨.ok, 0x00#8, pollFrame s.addr⟩]) ∧
      (∀ k, s.sinkOutcome = .fail k → t.trace = s.trace ++ transmission ((frame s).take k) ∧
        t.responses = s.responses ++ [⟨.txFail, 0x00#8, pollFrame s.addr⟩])

/-- 43_decoder.md R201: only the store rows write RB, and only the poll row appends to the trace. -/
def Obligations.OnlyStoresWriteRbAndOnlyPollsTransmit : Prop :=
  ∀ (s : State) (b : Byte),
    ((decoderStep b s).rb ≠ s.rb →
      classify s.rowContext s.st b = .decDataStore b ∨ classify s.rowContext s.st b = .decEscStore b) ∧
    ((decoderStep b s).trace ≠ s.trace → classify s.rowContext s.st b = .decCmdPoll)

/-- 43_decoder.md R202: inside DecodeData, `10 03` stores one literal 0x03 and the frame goes on. -/
def Obligations.EscapedEtxIsData : Prop :=
  ∀ (s : State) (pos : Pos) (val : Byte) (rest : List Byte) (ts : List Nat),
    s.rb.wf → s.st = .decodeData → s.cur < s.params.rxBytes → s.Receives [0x10#8, 0x03#8] rest ts →
    ∃ t, exec (.process pos val) s = .next t ∧ t.st = .decodeData ∧ t.cur = s.cur + 1 ∧
      t.memRead .rb s.cur = some 0x03#8 ∧ ∀ j, j ≠ s.cur → t.memRead .rb j = s.memRead .rb j

/-- 43_decoder.md R197: a set-data frame that lost its ETX goes on for as long as no unescaped 0x03 arrives. Such a
sequence is a payload, each byte bare or after an escape, and perhaps one escape whose byte has not come; in
DecodeEscData the first escape came before it. Its bytes, those of the next frame too, are stored at `cur` while there
is room, and no poll among them is answered; the next 0x03 that is not escaped ends the frame. -/
def Obligations.LostEtxKeepsTheDecoderInTheFrame : Prop :=
  ∀ (s : State) (xs : List SentByte) (tail bs : List Byte) (pos : Pos) (val : Byte) (rest : List Byte) (ts : List Nat),
    s.rb.wf → s.cur ≤ s.params.rxBytes → (∀ x ∈ xs, x.Legal) → tail = [] ∨ tail = [0x10#8] →
    (s.st = .decodeData ∧ bs = wirePayload xs ++ tail) ∨
      (s.st = .decodeEscData ∧ 0x10#8 :: bs = wirePayload xs ++ tail) →
    s.Receives bs rest ts →
    ∃ t, exec (.process pos val) s = .next t ∧
      t = { s with
        st := if tail = [] then .decodeData else .decodeEscData
        rb := t.rb, cur := min (s.cur + xs.length) s.params.rxBytes, txs := t.txs
        rx := rest, takes := ts, takeDraws := s.takeDraws + 1
        responses := s.responses ++ [⟨.ok, 0x00#8, bs⟩] } ∧
      (∀ i, i < s.params.rxBytes → t.memRead .rb i =
        if s.cur ≤ i ∧ i < s.cur + xs.length then xs[i - s.cur]?.map SentByte.byte else s.memRead .rb i) ∧
      (tail = [] → RowRuns .decDataEtx 0x03#8 t { t with st := .preamble1, txs := .none })

/-- 43_decoder.md R198: an unknown command (not 0x54, not `'P'` = 0x50, log 13) and one byte after it are dropped,
and the decoder is back in Preamble1 with RB, TB and the trace unchanged. -/
def Obligations.UnknownCommandDropsOneMoreByte : Prop :=
  ∀ (s : State) (cmd x : Byte) (pos : Pos) (val : Byte) (rest : List Byte) (ts : List Nat),
    s.st = .decodeCommand → cmd ≠ 0x54#8 → cmd ≠ 0x50#8 → s.Receives [cmd, x] rest ts →
    exec (.process pos val) s = .next { s with
      st := .preamble1, txs := .none, rx := rest, takes := ts, takeDraws := s.takeDraws + 1
      responses := s.responses ++ [⟨.ok, 0x00#8, [cmd, x]⟩] }

/-- 44_host_operations.md R216: a byte sequence fed by one PROCESS, or by two in a row, leaves the same core
state, the same trace and the same rest of the stream, given the same sink outcomes in the same order. -/
def Obligations.ProcessIsInvariantUnderSplitting : Prop :=
  ∀ (s : State) (bs cs rest : List Byte) (ts : List Nat) (p q r : Pos) (v w x : Byte), s.rx = bs ++ cs ++ rest →
    ∃ whole first second,
      exec (.process p v) { s with takes := (bs ++ cs).length :: ts } = .next whole ∧
      exec (.process q w) { s with takes := bs.length :: cs.length :: ts } = .next first ∧
      exec (.process r x) first = .next second ∧
      whole.core = second.core ∧ whole.trace = second.trace ∧ whole.rx = second.rx ∧
      whole.sinks = second.sinks ∧ whole.sinkDraws = second.sinkDraws ∧ whole.rx = rest

/-- 44_host_operations.md R213, 43_decoder.md R203: outside Address, a decoder step with another node address leaves the
same state but for that address and for the trace, and the trace too is the same unless the row is DEC_CMD_POLL, whose
frame carries the address. A frame past its address byte keeps the decision taken. -/
def Obligations.OutsideAddressOnlyThePollFrameDependsOnTheAddress : Prop :=
  ∀ (s : State) (b a : Byte), s.st ≠ .address →
    decoderStep b { s with addr := a } =
      { decoderStep b s with addr := a, trace := (decoderStep b { s with addr := a }).trace } ∧
    (classify s.rowContext s.st b ≠ .decCmdPoll →
      (decoderStep b { s with addr := a }).trace = (decoderStep b s).trace)

/-! ## Whole-machine rules -/

/-- 20_memory.md R51: no operation lets the host read TB. Two states that differ in TB and the trace alone step to
states that differ in TB and the trace alone, so through any steps no response, and no other state, depends on TB. -/
def Obligations.NoResponseDependsOnTb : Prop :=
  ∀ s s' t t' : State, s.SameButTbAndTrace s' → step s = .next t → step s' = .next t' → t.SameButTbAndTrace t'

/-- 20_memory.md R51: the only path from RB to TB passes through the host. Two states that differ in RB and the
responses alone step to states that differ in RB and the responses alone, so through any steps nothing sent on the
wire, and no byte of TB, depends on RB. -/
def Obligations.NothingSentDependsOnRb : Prop :=
  ∀ s s' t t' : State, s.SameButRbAndResponses s' → step s = .next t → step s' = .next t' →
    t.SameButRbAndResponses t'

/-- 10_state.md R28, R29, 42_encoder.md R157: a step other than reset only appends to the trace, and what it
appends is a sequence of whole transmissions, each raising TE and lowering it again. -/
def Obligations.TraceGrowsByWholeTransmissions : Prop :=
  ∀ s t : State, (∀ rest, s.inputs ≠ .reset :: rest) → step s = .next t →
    ∃ evs, t.trace = s.trace ++ evs ∧ Transmissions evs

/-- 10_state.md R31, 30_encoding.md R94: a request adds exactly one response to the record, with data 0x00 unless
it is a successful read, and consumed bytes only for PROCESS. -/
def Obligations.EveryRequestReturnsOneResponse : Prop :=
  ∀ (s t : State) (w : ReqWord) (rest : List HostInput), s.inputs = .request w :: rest → step s = .next t →
    ∃ r, t.responses = s.responses ++ [r] ∧
      (r.data ≠ 0x00#8 → r.status = .ok ∧
        ((∃ p v, decodeHost w = .getBit p v) ∨ ∃ p v, decodeHost w = .getByte p v)) ∧
      (r.bytes ≠ [] → ∃ p v, decodeHost w = .process p v)
end

