-- ==== Sys2Proof/Laws/State.lean ====
section
/-! SUPPORT. What each named update of State does to each field. -/

namespace Sys2Proof.Machine

/-! ## State.setSt -/

@[simp] theorem State.setSt_params (s : State) (d : DecState) : (s.setSt d).params = s.params := rfl
@[simp] theorem State.setSt_st (s : State) (d : DecState) : (s.setSt d).st = d := rfl
@[simp] theorem State.setSt_cur (s : State) (d : DecState) : (s.setSt d).cur = s.cur := rfl
@[simp] theorem State.setSt_addr (s : State) (d : DecState) : (s.setSt d).addr = s.addr := rfl
@[simp] theorem State.setSt_rb (s : State) (d : DecState) : (s.setSt d).rb = s.rb := rfl
@[simp] theorem State.setSt_tb (s : State) (d : DecState) : (s.setSt d).tb = s.tb := rfl
@[simp] theorem State.setSt_te (s : State) (d : DecState) : (s.setSt d).te = s.te := rfl
@[simp] theorem State.setSt_trace (s : State) (d : DecState) : (s.setSt d).trace = s.trace := rfl
@[simp] theorem State.setSt_rx (s : State) (d : DecState) : (s.setSt d).rx = s.rx := rfl
@[simp] theorem State.setSt_inputs (s : State) (d : DecState) : (s.setSt d).inputs = s.inputs := rfl
@[simp] theorem State.setSt_responses (s : State) (d : DecState) : (s.setSt d).responses = s.responses := rfl
@[simp] theorem State.setSt_txs (s : State) (d : DecState) : (s.setSt d).txs = s.txs := rfl
@[simp] theorem State.setSt_takes (s : State) (d : DecState) : (s.setSt d).takes = s.takes := rfl
@[simp] theorem State.setSt_sinks (s : State) (d : DecState) : (s.setSt d).sinks = s.sinks := rfl
@[simp] theorem State.setSt_takeDraws (s : State) (d : DecState) : (s.setSt d).takeDraws = s.takeDraws := rfl
@[simp] theorem State.setSt_sinkDraws (s : State) (d : DecState) : (s.setSt d).sinkDraws = s.sinkDraws := rfl

/-! ## State.setCur -/

@[simp] theorem State.setCur_params (s : State) (n : Nat) : (s.setCur n).params = s.params := rfl
@[simp] theorem State.setCur_st (s : State) (n : Nat) : (s.setCur n).st = s.st := rfl
@[simp] theorem State.setCur_cur (s : State) (n : Nat) : (s.setCur n).cur = n := rfl
@[simp] theorem State.setCur_addr (s : State) (n : Nat) : (s.setCur n).addr = s.addr := rfl
@[simp] theorem State.setCur_rb (s : State) (n : Nat) : (s.setCur n).rb = s.rb := rfl
@[simp] theorem State.setCur_tb (s : State) (n : Nat) : (s.setCur n).tb = s.tb := rfl
@[simp] theorem State.setCur_te (s : State) (n : Nat) : (s.setCur n).te = s.te := rfl
@[simp] theorem State.setCur_trace (s : State) (n : Nat) : (s.setCur n).trace = s.trace := rfl
@[simp] theorem State.setCur_rx (s : State) (n : Nat) : (s.setCur n).rx = s.rx := rfl
@[simp] theorem State.setCur_inputs (s : State) (n : Nat) : (s.setCur n).inputs = s.inputs := rfl
@[simp] theorem State.setCur_responses (s : State) (n : Nat) : (s.setCur n).responses = s.responses := rfl
@[simp] theorem State.setCur_txs (s : State) (n : Nat) : (s.setCur n).txs = s.txs := rfl
@[simp] theorem State.setCur_takes (s : State) (n : Nat) : (s.setCur n).takes = s.takes := rfl
@[simp] theorem State.setCur_sinks (s : State) (n : Nat) : (s.setCur n).sinks = s.sinks := rfl
@[simp] theorem State.setCur_takeDraws (s : State) (n : Nat) : (s.setCur n).takeDraws = s.takeDraws := rfl
@[simp] theorem State.setCur_sinkDraws (s : State) (n : Nat) : (s.setCur n).sinkDraws = s.sinkDraws := rfl

/-! ## State.setAddr -/

@[simp] theorem State.setAddr_params (s : State) (a : Byte) : (s.setAddr a).params = s.params := rfl
@[simp] theorem State.setAddr_st (s : State) (a : Byte) : (s.setAddr a).st = s.st := rfl
@[simp] theorem State.setAddr_cur (s : State) (a : Byte) : (s.setAddr a).cur = s.cur := rfl
@[simp] theorem State.setAddr_addr (s : State) (a : Byte) : (s.setAddr a).addr = a := rfl
@[simp] theorem State.setAddr_rb (s : State) (a : Byte) : (s.setAddr a).rb = s.rb := rfl
@[simp] theorem State.setAddr_tb (s : State) (a : Byte) : (s.setAddr a).tb = s.tb := rfl
@[simp] theorem State.setAddr_te (s : State) (a : Byte) : (s.setAddr a).te = s.te := rfl
@[simp] theorem State.setAddr_trace (s : State) (a : Byte) : (s.setAddr a).trace = s.trace := rfl
@[simp] theorem State.setAddr_rx (s : State) (a : Byte) : (s.setAddr a).rx = s.rx := rfl
@[simp] theorem State.setAddr_inputs (s : State) (a : Byte) : (s.setAddr a).inputs = s.inputs := rfl
@[simp] theorem State.setAddr_responses (s : State) (a : Byte) : (s.setAddr a).responses = s.responses := rfl
@[simp] theorem State.setAddr_txs (s : State) (a : Byte) : (s.setAddr a).txs = s.txs := rfl
@[simp] theorem State.setAddr_takes (s : State) (a : Byte) : (s.setAddr a).takes = s.takes := rfl
@[simp] theorem State.setAddr_sinks (s : State) (a : Byte) : (s.setAddr a).sinks = s.sinks := rfl
@[simp] theorem State.setAddr_takeDraws (s : State) (a : Byte) : (s.setAddr a).takeDraws = s.takeDraws := rfl
@[simp] theorem State.setAddr_sinkDraws (s : State) (a : Byte) : (s.setAddr a).sinkDraws = s.sinkDraws := rfl

/-! ## State.setTe -/

@[simp] theorem State.setTe_params (s : State) (v : Bool) : (s.setTe v).params = s.params := rfl
@[simp] theorem State.setTe_st (s : State) (v : Bool) : (s.setTe v).st = s.st := rfl
@[simp] theorem State.setTe_cur (s : State) (v : Bool) : (s.setTe v).cur = s.cur := rfl
@[simp] theorem State.setTe_addr (s : State) (v : Bool) : (s.setTe v).addr = s.addr := rfl
@[simp] theorem State.setTe_rb (s : State) (v : Bool) : (s.setTe v).rb = s.rb := rfl
@[simp] theorem State.setTe_tb (s : State) (v : Bool) : (s.setTe v).tb = s.tb := rfl
@[simp] theorem State.setTe_te (s : State) (v : Bool) : (s.setTe v).te = v := rfl
@[simp] theorem State.setTe_trace (s : State) (v : Bool) : (s.setTe v).trace = s.trace := rfl
@[simp] theorem State.setTe_rx (s : State) (v : Bool) : (s.setTe v).rx = s.rx := rfl
@[simp] theorem State.setTe_inputs (s : State) (v : Bool) : (s.setTe v).inputs = s.inputs := rfl
@[simp] theorem State.setTe_responses (s : State) (v : Bool) : (s.setTe v).responses = s.responses := rfl
@[simp] theorem State.setTe_txs (s : State) (v : Bool) : (s.setTe v).txs = s.txs := rfl
@[simp] theorem State.setTe_takes (s : State) (v : Bool) : (s.setTe v).takes = s.takes := rfl
@[simp] theorem State.setTe_sinks (s : State) (v : Bool) : (s.setTe v).sinks = s.sinks := rfl
@[simp] theorem State.setTe_takeDraws (s : State) (v : Bool) : (s.setTe v).takeDraws = s.takeDraws := rfl
@[simp] theorem State.setTe_sinkDraws (s : State) (v : Bool) : (s.setTe v).sinkDraws = s.sinkDraws := rfl

/-! ## State.setTxs -/

@[simp] theorem State.setTxs_params (s : State) (x : TxStatus) : (s.setTxs x).params = s.params := rfl
@[simp] theorem State.setTxs_st (s : State) (x : TxStatus) : (s.setTxs x).st = s.st := rfl
@[simp] theorem State.setTxs_cur (s : State) (x : TxStatus) : (s.setTxs x).cur = s.cur := rfl
@[simp] theorem State.setTxs_addr (s : State) (x : TxStatus) : (s.setTxs x).addr = s.addr := rfl
@[simp] theorem State.setTxs_rb (s : State) (x : TxStatus) : (s.setTxs x).rb = s.rb := rfl
@[simp] theorem State.setTxs_tb (s : State) (x : TxStatus) : (s.setTxs x).tb = s.tb := rfl
@[simp] theorem State.setTxs_te (s : State) (x : TxStatus) : (s.setTxs x).te = s.te := rfl
@[simp] theorem State.setTxs_trace (s : State) (x : TxStatus) : (s.setTxs x).trace = s.trace := rfl
@[simp] theorem State.setTxs_rx (s : State) (x : TxStatus) : (s.setTxs x).rx = s.rx := rfl
@[simp] theorem State.setTxs_inputs (s : State) (x : TxStatus) : (s.setTxs x).inputs = s.inputs := rfl
@[simp] theorem State.setTxs_responses (s : State) (x : TxStatus) : (s.setTxs x).responses = s.responses := rfl
@[simp] theorem State.setTxs_txs (s : State) (x : TxStatus) : (s.setTxs x).txs = x := rfl
@[simp] theorem State.setTxs_takes (s : State) (x : TxStatus) : (s.setTxs x).takes = s.takes := rfl
@[simp] theorem State.setTxs_sinks (s : State) (x : TxStatus) : (s.setTxs x).sinks = s.sinks := rfl
@[simp] theorem State.setTxs_takeDraws (s : State) (x : TxStatus) : (s.setTxs x).takeDraws = s.takeDraws := rfl
@[simp] theorem State.setTxs_sinkDraws (s : State) (x : TxStatus) : (s.setTxs x).sinkDraws = s.sinkDraws := rfl

/-! ## State.emit -/

@[simp] theorem State.emit_params (s : State) (evs : List TxEvent) : (s.emit evs).params = s.params := rfl
@[simp] theorem State.emit_st (s : State) (evs : List TxEvent) : (s.emit evs).st = s.st := rfl
@[simp] theorem State.emit_cur (s : State) (evs : List TxEvent) : (s.emit evs).cur = s.cur := rfl
@[simp] theorem State.emit_addr (s : State) (evs : List TxEvent) : (s.emit evs).addr = s.addr := rfl
@[simp] theorem State.emit_rb (s : State) (evs : List TxEvent) : (s.emit evs).rb = s.rb := rfl
@[simp] theorem State.emit_tb (s : State) (evs : List TxEvent) : (s.emit evs).tb = s.tb := rfl
@[simp] theorem State.emit_te (s : State) (evs : List TxEvent) : (s.emit evs).te = s.te := rfl
@[simp] theorem State.emit_trace (s : State) (evs : List TxEvent) : (s.emit evs).trace = s.trace ++ evs := rfl
@[simp] theorem State.emit_rx (s : State) (evs : List TxEvent) : (s.emit evs).rx = s.rx := rfl
@[simp] theorem State.emit_inputs (s : State) (evs : List TxEvent) : (s.emit evs).inputs = s.inputs := rfl
@[simp] theorem State.emit_responses (s : State) (evs : List TxEvent) : (s.emit evs).responses = s.responses := rfl
@[simp] theorem State.emit_txs (s : State) (evs : List TxEvent) : (s.emit evs).txs = s.txs := rfl
@[simp] theorem State.emit_takes (s : State) (evs : List TxEvent) : (s.emit evs).takes = s.takes := rfl
@[simp] theorem State.emit_sinks (s : State) (evs : List TxEvent) : (s.emit evs).sinks = s.sinks := rfl
@[simp] theorem State.emit_takeDraws (s : State) (evs : List TxEvent) : (s.emit evs).takeDraws = s.takeDraws := rfl
@[simp] theorem State.emit_sinkDraws (s : State) (evs : List TxEvent) : (s.emit evs).sinkDraws = s.sinkDraws := rfl

/-! ## State.respond -/

@[simp] theorem State.respond_params (s : State) (r : Response) : (s.respond r).params = s.params := rfl
@[simp] theorem State.respond_st (s : State) (r : Response) : (s.respond r).st = s.st := rfl
@[simp] theorem State.respond_cur (s : State) (r : Response) : (s.respond r).cur = s.cur := rfl
@[simp] theorem State.respond_addr (s : State) (r : Response) : (s.respond r).addr = s.addr := rfl
@[simp] theorem State.respond_rb (s : State) (r : Response) : (s.respond r).rb = s.rb := rfl
@[simp] theorem State.respond_tb (s : State) (r : Response) : (s.respond r).tb = s.tb := rfl
@[simp] theorem State.respond_te (s : State) (r : Response) : (s.respond r).te = s.te := rfl
@[simp] theorem State.respond_trace (s : State) (r : Response) : (s.respond r).trace = s.trace := rfl
@[simp] theorem State.respond_rx (s : State) (r : Response) : (s.respond r).rx = s.rx := rfl
@[simp] theorem State.respond_inputs (s : State) (r : Response) : (s.respond r).inputs = s.inputs := rfl
@[simp] theorem State.respond_responses (s : State) (r : Response) : (s.respond r).responses = s.responses ++ [r] := rfl
@[simp] theorem State.respond_txs (s : State) (r : Response) : (s.respond r).txs = s.txs := rfl
@[simp] theorem State.respond_takes (s : State) (r : Response) : (s.respond r).takes = s.takes := rfl
@[simp] theorem State.respond_sinks (s : State) (r : Response) : (s.respond r).sinks = s.sinks := rfl
@[simp] theorem State.respond_takeDraws (s : State) (r : Response) : (s.respond r).takeDraws = s.takeDraws := rfl
@[simp] theorem State.respond_sinkDraws (s : State) (r : Response) : (s.respond r).sinkDraws = s.sinkDraws := rfl

/-! ## State.done -/

@[simp] theorem State.done_params (s : State) (d : Byte) : (s.done d).params = s.params := rfl
@[simp] theorem State.done_st (s : State) (d : Byte) : (s.done d).st = s.st := rfl
@[simp] theorem State.done_cur (s : State) (d : Byte) : (s.done d).cur = s.cur := rfl
@[simp] theorem State.done_addr (s : State) (d : Byte) : (s.done d).addr = s.addr := rfl
@[simp] theorem State.done_rb (s : State) (d : Byte) : (s.done d).rb = s.rb := rfl
@[simp] theorem State.done_tb (s : State) (d : Byte) : (s.done d).tb = s.tb := rfl
@[simp] theorem State.done_te (s : State) (d : Byte) : (s.done d).te = s.te := rfl
@[simp] theorem State.done_trace (s : State) (d : Byte) : (s.done d).trace = s.trace := rfl
@[simp] theorem State.done_rx (s : State) (d : Byte) : (s.done d).rx = s.rx := rfl
@[simp] theorem State.done_inputs (s : State) (d : Byte) : (s.done d).inputs = s.inputs := rfl
@[simp] theorem State.done_responses (s : State) (d : Byte) : (s.done d).responses = s.responses ++ [{ status := .ok, data := d, bytes := [] }] := rfl
@[simp] theorem State.done_txs (s : State) (d : Byte) : (s.done d).txs = s.txs := rfl
@[simp] theorem State.done_takes (s : State) (d : Byte) : (s.done d).takes = s.takes := rfl
@[simp] theorem State.done_sinks (s : State) (d : Byte) : (s.done d).sinks = s.sinks := rfl
@[simp] theorem State.done_takeDraws (s : State) (d : Byte) : (s.done d).takeDraws = s.takeDraws := rfl
@[simp] theorem State.done_sinkDraws (s : State) (d : Byte) : (s.done d).sinkDraws = s.sinkDraws := rfl

/-! ## State.fail -/

@[simp] theorem State.fail_params (s : State) (e : Status) : (s.fail e).params = s.params := rfl
@[simp] theorem State.fail_st (s : State) (e : Status) : (s.fail e).st = s.st := rfl
@[simp] theorem State.fail_cur (s : State) (e : Status) : (s.fail e).cur = s.cur := rfl
@[simp] theorem State.fail_addr (s : State) (e : Status) : (s.fail e).addr = s.addr := rfl
@[simp] theorem State.fail_rb (s : State) (e : Status) : (s.fail e).rb = s.rb := rfl
@[simp] theorem State.fail_tb (s : State) (e : Status) : (s.fail e).tb = s.tb := rfl
@[simp] theorem State.fail_te (s : State) (e : Status) : (s.fail e).te = s.te := rfl
@[simp] theorem State.fail_trace (s : State) (e : Status) : (s.fail e).trace = s.trace := rfl
@[simp] theorem State.fail_rx (s : State) (e : Status) : (s.fail e).rx = s.rx := rfl
@[simp] theorem State.fail_inputs (s : State) (e : Status) : (s.fail e).inputs = s.inputs := rfl
@[simp] theorem State.fail_responses (s : State) (e : Status) : (s.fail e).responses = s.responses ++ [{ status := e, data := 0x00#8, bytes := [] }] := rfl
@[simp] theorem State.fail_txs (s : State) (e : Status) : (s.fail e).txs = s.txs := rfl
@[simp] theorem State.fail_takes (s : State) (e : Status) : (s.fail e).takes = s.takes := rfl
@[simp] theorem State.fail_sinks (s : State) (e : Status) : (s.fail e).sinks = s.sinks := rfl
@[simp] theorem State.fail_takeDraws (s : State) (e : Status) : (s.fail e).takeDraws = s.takeDraws := rfl
@[simp] theorem State.fail_sinkDraws (s : State) (e : Status) : (s.fail e).sinkDraws = s.sinkDraws := rfl

/-! ## State.consume -/

@[simp] theorem State.consume_params (s : State) : s.consume.params = s.params := rfl
@[simp] theorem State.consume_st (s : State) : s.consume.st = s.st := rfl
@[simp] theorem State.consume_cur (s : State) : s.consume.cur = s.cur := rfl
@[simp] theorem State.consume_addr (s : State) : s.consume.addr = s.addr := rfl
@[simp] theorem State.consume_rb (s : State) : s.consume.rb = s.rb := rfl
@[simp] theorem State.consume_tb (s : State) : s.consume.tb = s.tb := rfl
@[simp] theorem State.consume_te (s : State) : s.consume.te = s.te := rfl
@[simp] theorem State.consume_trace (s : State) : s.consume.trace = s.trace := rfl
@[simp] theorem State.consume_rx (s : State) : s.consume.rx = s.rx.drop s.available := rfl
@[simp] theorem State.consume_inputs (s : State) : s.consume.inputs = s.inputs := rfl
@[simp] theorem State.consume_responses (s : State) : s.consume.responses = s.responses := rfl
@[simp] theorem State.consume_txs (s : State) : s.consume.txs = s.txs := rfl
@[simp] theorem State.consume_takes (s : State) : s.consume.takes = s.takes.tail := rfl
@[simp] theorem State.consume_sinks (s : State) : s.consume.sinks = s.sinks := rfl
@[simp] theorem State.consume_takeDraws (s : State) : s.consume.takeDraws = s.takeDraws + 1 := rfl
@[simp] theorem State.consume_sinkDraws (s : State) : s.consume.sinkDraws = s.sinkDraws := rfl

/-! ## State.afterSinkDraw -/

@[simp] theorem State.afterSinkDraw_params (s : State) : s.afterSinkDraw.params = s.params := rfl
@[simp] theorem State.afterSinkDraw_st (s : State) : s.afterSinkDraw.st = s.st := rfl
@[simp] theorem State.afterSinkDraw_cur (s : State) : s.afterSinkDraw.cur = s.cur := rfl
@[simp] theorem State.afterSinkDraw_addr (s : State) : s.afterSinkDraw.addr = s.addr := rfl
@[simp] theorem State.afterSinkDraw_rb (s : State) : s.afterSinkDraw.rb = s.rb := rfl
@[simp] theorem State.afterSinkDraw_tb (s : State) : s.afterSinkDraw.tb = s.tb := rfl
@[simp] theorem State.afterSinkDraw_te (s : State) : s.afterSinkDraw.te = s.te := rfl
@[simp] theorem State.afterSinkDraw_trace (s : State) : s.afterSinkDraw.trace = s.trace := rfl
@[simp] theorem State.afterSinkDraw_rx (s : State) : s.afterSinkDraw.rx = s.rx := rfl
@[simp] theorem State.afterSinkDraw_inputs (s : State) : s.afterSinkDraw.inputs = s.inputs := rfl
@[simp] theorem State.afterSinkDraw_responses (s : State) : s.afterSinkDraw.responses = s.responses := rfl
@[simp] theorem State.afterSinkDraw_txs (s : State) : s.afterSinkDraw.txs = s.txs := rfl
@[simp] theorem State.afterSinkDraw_takes (s : State) : s.afterSinkDraw.takes = s.takes := rfl
@[simp] theorem State.afterSinkDraw_sinks (s : State) : s.afterSinkDraw.sinks = s.sinks.tail := rfl
@[simp] theorem State.afterSinkDraw_takeDraws (s : State) : s.afterSinkDraw.takeDraws = s.takeDraws := rfl
@[simp] theorem State.afterSinkDraw_sinkDraws (s : State) : s.afterSinkDraw.sinkDraws = s.sinkDraws + 1 := rfl

/-! ## State.initialise -/

@[simp] theorem State.initialise_params (s : State) (a : Byte) : (s.initialise a).params = s.params := rfl
@[simp] theorem State.initialise_st (s : State) (a : Byte) : (s.initialise a).st = .preamble1 := rfl
@[simp] theorem State.initialise_cur (s : State) (a : Byte) : (s.initialise a).cur = 0 := rfl
@[simp] theorem State.initialise_addr (s : State) (a : Byte) : (s.initialise a).addr = a := rfl
@[simp] theorem State.initialise_rb (s : State) (a : Byte) : (s.initialise a).rb = [] := rfl
@[simp] theorem State.initialise_tb (s : State) (a : Byte) : (s.initialise a).tb = [] := rfl
@[simp] theorem State.initialise_te (s : State) (a : Byte) : (s.initialise a).te = false := rfl
@[simp] theorem State.initialise_trace (s : State) (a : Byte) : (s.initialise a).trace = s.trace := rfl
@[simp] theorem State.initialise_rx (s : State) (a : Byte) : (s.initialise a).rx = s.rx := rfl
@[simp] theorem State.initialise_inputs (s : State) (a : Byte) : (s.initialise a).inputs = s.inputs := rfl
@[simp] theorem State.initialise_responses (s : State) (a : Byte) : (s.initialise a).responses = s.responses := rfl
@[simp] theorem State.initialise_txs (s : State) (a : Byte) : (s.initialise a).txs = s.txs := rfl
@[simp] theorem State.initialise_takes (s : State) (a : Byte) : (s.initialise a).takes = s.takes := rfl
@[simp] theorem State.initialise_sinks (s : State) (a : Byte) : (s.initialise a).sinks = s.sinks := rfl
@[simp] theorem State.initialise_takeDraws (s : State) (a : Byte) : (s.initialise a).takeDraws = s.takeDraws := rfl
@[simp] theorem State.initialise_sinkDraws (s : State) (a : Byte) : (s.initialise a).sinkDraws = s.sinkDraws := rfl

/-! ## State.hardwareReset -/

@[simp] theorem State.hardwareReset_params (s : State) : s.hardwareReset.params = s.params := rfl
@[simp] theorem State.hardwareReset_st (s : State) : s.hardwareReset.st = .preamble1 := rfl
@[simp] theorem State.hardwareReset_cur (s : State) : s.hardwareReset.cur = 0 := rfl
@[simp] theorem State.hardwareReset_addr (s : State) : s.hardwareReset.addr = s.params.nodeAddressCfg := rfl
@[simp] theorem State.hardwareReset_rb (s : State) : s.hardwareReset.rb = [] := rfl
@[simp] theorem State.hardwareReset_tb (s : State) : s.hardwareReset.tb = [] := rfl
@[simp] theorem State.hardwareReset_te (s : State) : s.hardwareReset.te = false := rfl
@[simp] theorem State.hardwareReset_trace (s : State) : s.hardwareReset.trace = [] := rfl
@[simp] theorem State.hardwareReset_rx (s : State) : s.hardwareReset.rx = s.rx := rfl
@[simp] theorem State.hardwareReset_inputs (s : State) : s.hardwareReset.inputs = s.inputs := rfl
@[simp] theorem State.hardwareReset_responses (s : State) : s.hardwareReset.responses = s.responses := rfl
@[simp] theorem State.hardwareReset_txs (s : State) : s.hardwareReset.txs = s.txs := rfl
@[simp] theorem State.hardwareReset_takes (s : State) : s.hardwareReset.takes = s.takes := rfl
@[simp] theorem State.hardwareReset_sinks (s : State) : s.hardwareReset.sinks = s.sinks := rfl
@[simp] theorem State.hardwareReset_takeDraws (s : State) : s.hardwareReset.takeDraws = s.takeDraws := rfl
@[simp] theorem State.hardwareReset_sinkDraws (s : State) : s.hardwareReset.sinkDraws = s.sinkDraws := rfl

/-! ## State.askFirst -/

@[simp] theorem State.askFirst_params (s : State) (w : ReqWord) : (s.askFirst w).params = s.params := rfl
@[simp] theorem State.askFirst_st (s : State) (w : ReqWord) : (s.askFirst w).st = s.st := rfl
@[simp] theorem State.askFirst_cur (s : State) (w : ReqWord) : (s.askFirst w).cur = s.cur := rfl
@[simp] theorem State.askFirst_addr (s : State) (w : ReqWord) : (s.askFirst w).addr = s.addr := rfl
@[simp] theorem State.askFirst_rb (s : State) (w : ReqWord) : (s.askFirst w).rb = s.rb := rfl
@[simp] theorem State.askFirst_tb (s : State) (w : ReqWord) : (s.askFirst w).tb = s.tb := rfl
@[simp] theorem State.askFirst_te (s : State) (w : ReqWord) : (s.askFirst w).te = s.te := rfl
@[simp] theorem State.askFirst_trace (s : State) (w : ReqWord) : (s.askFirst w).trace = s.trace := rfl
@[simp] theorem State.askFirst_rx (s : State) (w : ReqWord) : (s.askFirst w).rx = s.rx := rfl
@[simp] theorem State.askFirst_inputs (s : State) (w : ReqWord) : (s.askFirst w).inputs = .request w :: s.inputs := rfl
@[simp] theorem State.askFirst_responses (s : State) (w : ReqWord) : (s.askFirst w).responses = s.responses := rfl
@[simp] theorem State.askFirst_txs (s : State) (w : ReqWord) : (s.askFirst w).txs = s.txs := rfl
@[simp] theorem State.askFirst_takes (s : State) (w : ReqWord) : (s.askFirst w).takes = s.takes := rfl
@[simp] theorem State.askFirst_sinks (s : State) (w : ReqWord) : (s.askFirst w).sinks = s.sinks := rfl
@[simp] theorem State.askFirst_takeDraws (s : State) (w : ReqWord) : (s.askFirst w).takeDraws = s.takeDraws := rfl
@[simp] theorem State.askFirst_sinkDraws (s : State) (w : ReqWord) : (s.askFirst w).sinkDraws = s.sinkDraws := rfl

/-! ## State.setBuf and the primitives -/

@[simp] theorem State.buf_rb (s : State) : s.buf .rb = s.rb := rfl
@[simp] theorem State.buf_tb (s : State) : s.buf .tb = s.tb := rfl
@[simp] theorem State.bufLen_rb (s : State) : s.bufLen .rb = s.params.rxBytes := rfl
@[simp] theorem State.bufLen_tb (s : State) : s.bufLen .tb = s.params.txBytes := rfl
@[simp] theorem State.setBuf_rb (s : State) (m : Memory) : s.setBuf .rb m = { s with rb := m } := rfl
@[simp] theorem State.setBuf_tb (s : State) (m : Memory) : s.setBuf .tb m = { s with tb := m } := rfl
@[simp] theorem State.rowContext_addr (s : State) : s.rowContext.addr = s.addr := rfl
@[simp] theorem State.rowContext_room (s : State) : s.rowContext.room = decide (s.cur < s.params.rxBytes) := rfl

end Sys2Proof.Machine
end

