-- ==== Sys2Proof/Laws/Memory.lean ====
section
/-! SUPPORT. A buffer's contents: reads after writes, the canonical form, and the primitives over State. -/

namespace Sys2Proof.Machine

/-- An index at which nothing is listed reads as 0x00. -/
theorem Memory.byteAt_unlisted (m : Memory) (i : Nat) (h : ∀ c ∈ m, c.1 ≠ i) : m.byteAt i = unlistedByte := by
  induction m with
  | nil => rfl
  | cons c m ih =>
    obtain ⟨a, v⟩ := c
    have ha : i ≠ a := fun e => h (a, v) (by simp) e.symm
    simp only [Memory.byteAt, if_neg ha]
    exact ih (fun c hc => h c (by simp [hc]))

/-- In canonical contents, an index below the first listed one reads as 0x00. -/
theorem Memory.byteAt_below_head {a : Nat} {w : Byte} {m : Memory} (h : Memory.wf ((a, w) :: m)) {i : Nat}
    (hi : i < a) : m.byteAt i = unlistedByte := by
  apply Memory.byteAt_unlisted
  intro c hc e
  have := (List.pairwise_cons.mp h.1).1 c hc
  simp only at this
  omega

theorem Memory.wf_tail {c : Host.Cell} {m : Memory} (h : Memory.wf (c :: m)) : m.wf :=
  ⟨(List.pairwise_cons.mp h.1).2, fun d hd => h.2 d (by simp [hd])⟩

/-- In canonical contents, the first listed index is listed once. -/
theorem Memory.byteAt_head {a : Nat} {w : Byte} {m : Memory} (h : Memory.wf ((a, w) :: m)) :
    m.byteAt a = unlistedByte := by
  apply Memory.byteAt_unlisted
  intro c hc e
  have := (List.pairwise_cons.mp h.1).1 c hc
  simp only at this
  omega

/-- Reading after writing: the written byte there, and what stood before everywhere else. -/
theorem Memory.byteAt_put (m : Memory) (h : m.wf) (i j : Nat) (v : Byte) :
    (m.put i v).byteAt j = if j = i then v else m.byteAt j := by
  induction m with
  | nil =>
    by_cases hv : v = unlistedByte <;> by_cases hj : j = i <;> simp [Memory.put, Memory.byteAt, hv, hj]
  | cons c m ih =>
    obtain ⟨a, w⟩ := c
    have ih := ih (Memory.wf_tail h)
    simp only [Memory.put]
    split
    · rename_i hlt
      have hb := Memory.byteAt_below_head h hlt
      by_cases hv : v = unlistedByte
      · by_cases hj : j = i
        · subst hj; simp [Memory.byteAt, hv, hb, Nat.ne_of_lt hlt]
        · simp [hv, hj]
      · by_cases hj : j = i <;> simp [Memory.byteAt, hv, hj]
    · split
      · rename_i hge heq
        subst heq
        by_cases hv : v = unlistedByte
        · by_cases hj : j = i
          · subst hj; simp [hv, Memory.byteAt_head h]
          · simp [Memory.byteAt, hv, hj]
        · by_cases hj : j = i <;> simp [Memory.byteAt, hv, hj]
      · rename_i hge hne
        by_cases hja : j = a
        · subst hja
          have : j ≠ i := fun e => hne e.symm
          simp [Memory.byteAt, this]
        · simp [Memory.byteAt, hja, ih]

/-- Every index listed after a write was listed before or is the written one. -/
theorem Memory.mem_put {m : Memory} {i : Nat} {v : Byte} {c : Host.Cell} (h : c ∈ m.put i v) :
    c ∈ m ∨ (c = (i, v) ∧ v ≠ unlistedByte) := by
  induction m with
  | nil =>
    by_cases hv : v = unlistedByte <;> simp_all [Memory.put]
  | cons d m ih =>
    obtain ⟨a, w⟩ := d
    simp only [Memory.put] at h
    split at h
    · split at h
      · exact .inl h
      · rcases List.mem_cons.mp h with rfl | h
        · exact .inr ⟨rfl, ‹_›⟩
        · exact .inl h
    · split at h
      · split at h
        · exact .inl (by simp [h])
        · rcases List.mem_cons.mp h with rfl | h
          · exact .inr ⟨rfl, ‹_›⟩
          · exact .inl (by simp [h])
      · rcases List.mem_cons.mp h with rfl | h
        · exact .inl (by simp)
        · exact (ih h).imp (fun h => by simp [h]) id

/-- A write keeps the canonical form. -/
theorem Memory.put_wf (m : Memory) (h : m.wf) (i : Nat) (v : Byte) : (m.put i v).wf := by
  refine ⟨?_, fun c hc => ?_⟩
  · induction m with
    | nil => by_cases hv : v = unlistedByte <;> simp [Memory.put, hv]
    | cons d m ih =>
      obtain ⟨a, w⟩ := d
      have hp := List.pairwise_cons.mp h.1
      simp only [Memory.put]
      split
      · split
        · exact h.1
        · refine List.pairwise_cons.mpr ⟨fun c hc => ?_, h.1⟩
          rcases List.mem_cons.mp hc with rfl | hc
          · assumption
          · have := hp.1 c hc
            simp only at this ⊢
            omega
      · split
        · rename_i hge heq
          subst heq
          split
          · exact hp.2
          · exact List.pairwise_cons.mpr ⟨hp.1, hp.2⟩
        · refine List.pairwise_cons.mpr ⟨fun c hc => ?_, ih (Memory.wf_tail h)⟩
          rcases Memory.mem_put hc with hc | ⟨rfl, -⟩
          · exact hp.1 c hc
          · simp only
            omega
  · rcases Memory.mem_put hc with hc | ⟨rfl, hv⟩
    · exact h.2 c hc
    · exact hv

/-- A write below the depth keeps every listed index below it. -/
theorem Memory.put_below (m : Memory) (n : Nat) (h : m.below n) (i : Nat) (hi : i < n) (v : Byte) :
    (m.put i v).below n := by
  intro c hc
  rcases Memory.mem_put hc with hc | ⟨rfl, -⟩
  · exact h c hc
  · exact hi

@[simp] theorem Memory.nil_wf : Memory.wf [] := ⟨List.Pairwise.nil, by simp⟩
@[simp] theorem Memory.nil_below (n : Nat) : Memory.below [] n := by simp [Memory.below]
@[simp] theorem Memory.nil_byteAt (i : Nat) : Memory.byteAt [] i = unlistedByte := rfl

/-- Canonical contents that read alike at every index are the same list: equal memories are equal data. -/
theorem Memory.ext_of_byteAt (m n : Memory) (hm : m.wf) (hn : n.wf) (h : ∀ i, m.byteAt i = n.byteAt i) : m = n := by
  induction m generalizing n with
  | nil =>
    cases n with
    | nil => rfl
    | cons c n =>
      have := h c.1
      have hc := hn.2 c (by simp)
      simp [Memory.byteAt] at this
      exact absurd this.symm hc
  | cons c m ih =>
    obtain ⟨a, v⟩ := c
    cases n with
    | nil =>
      have := h a
      have hc := hm.2 (a, v) (by simp)
      simp [Memory.byteAt] at this
      exact absurd this hc
    | cons d n =>
      obtain ⟨b, w⟩ := d
      have hva := hm.2 (a, v) (by simp)
      have hwb := hn.2 (b, w) (by simp)
      have hab : a = b := by
        rcases Nat.lt_trichotomy a b with hlt | heq | hgt
        · have := h a
          rw [show Memory.byteAt ((b, w) :: n) a = unlistedByte by
            simp [Memory.byteAt, Nat.ne_of_lt hlt, Memory.byteAt_below_head hn hlt]] at this
          simp [Memory.byteAt] at this
          exact absurd this hva
        · exact heq
        · have := h b
          rw [show Memory.byteAt ((a, v) :: m) b = unlistedByte by
            simp [Memory.byteAt, Nat.ne_of_lt hgt, Memory.byteAt_below_head hm hgt]] at this
          simp [Memory.byteAt] at this
          exact absurd this.symm hwb
      subst hab
      have hvw : v = w := by simpa [Memory.byteAt] using h a
      subst hvw
      congr 1
      refine ih n (Memory.wf_tail hm) (Memory.wf_tail hn) (fun i => ?_)
      by_cases hi : i = a
      · subst hi
        rw [Memory.byteAt_head hm, Memory.byteAt_head hn]
      · simpa [Memory.byteAt, hi] using h i

/-! ## The primitives -/

theorem State.memRead_eq_some {s : State} {b : Buf} {i : Nat} (h : i < s.bufLen b) :
    s.memRead b i = some ((s.buf b).byteAt i) := by
  simp [State.memRead, Nat.not_le.mpr h]

theorem State.memRead_eq_none {s : State} {b : Buf} {i : Nat} : s.memRead b i = none ↔ s.bufLen b ≤ i := by
  simp only [State.memRead]
  split <;> simp_all

/-- MemRead depends on the depth and the buffer's contents alone. -/
theorem State.memRead_congr {s t : State} (b : Buf) (hp : t.params = s.params) (hb : t.buf b = s.buf b) (i : Nat) :
    t.memRead b i = s.memRead b i := by
  simp only [State.memRead]
  rw [show t.bufLen b = s.bufLen b by cases b <;> simp [hp], hb]

/-- MemWrite fails exactly where the index is not below the depth. -/
theorem State.memWrite_eq_none {s : State} {b : Buf} {i : Nat} {v : Byte} :
    s.memWrite b i v = none ↔ s.bufLen b ≤ i := by
  simp only [State.memWrite]
  split <;> simp_all

/-- What MemWrite does where it does not fail. -/
theorem State.memWrite_cases {s t : State} {b : Buf} {i : Nat} {v : Byte} (h : s.memWrite b i v = some t) :
    i < s.bufLen b ∧ t = s.setBuf b ((s.buf b).put i v) := by
  simp only [State.memWrite] at h
  split at h
  · cases h
  · exact ⟨by omega, by simpa using h.symm⟩

end Sys2Proof.Machine
end

