-- ==== Sys2Proof/Laws/Encoder.lean ====
section
/-! SUPPORT. The payload, the frame, and everything an encoder run does. -/

namespace Sys2Proof.Machine

/-- Every read of the payload succeeds (R124). -/
theorem payload_eq_map (s : State) : payload s = (List.range s.params.txBytes).map (fun i => s.tb.byteAt i) := by
  have h : ∀ l : List Nat, (∀ i ∈ l, i < s.params.txBytes) →
      l.filterMap (fun i => s.memRead .tb i) = l.map (fun i => s.tb.byteAt i) := by
    intro l
    induction l with
    | nil => simp
    | cons i l ih =>
      intro hl
      rw [List.filterMap_cons, State.memRead_eq_some (hl i (by simp))]
      simp [ih (fun j hj => hl j (by simp [hj]))]
  exact h _ (fun i hi => List.mem_range.mp hi)

@[simp] theorem payload_length (s : State) : (payload s).length = s.params.txBytes := by simp [payload_eq_map]

@[simp] theorem frame_length (s : State) : (frame s).length = s.params.txBytes + 6 := by simp [frame]

/-- The payload depends on TX_BYTES and TB alone. -/
theorem payload_congr {s t : State} (hp : t.params = s.params) (hb : t.tb = s.tb) : payload t = payload s := by
  simp [payload_eq_map, hp, hb]

/-- The frame depends on TX_BYTES, TB and the node address alone (R150). -/
theorem frame_congr {s t : State} (hp : t.params = s.params) (hb : t.tb = s.tb) (ha : t.addr = s.addr) :
    frame t = frame s := by
  simp [frame, payload_congr hp hb, ha]

/-- The sink's outcome depends on the environment's list and counter alone. -/
theorem State.sinkOutcome_congr {s t : State} (h : t.sinks = s.sinks) (hd : t.sinkDraws = s.sinkDraws) :
    t.sinkOutcome = s.sinkOutcome := by
  simp [State.sinkOutcome, h, hd]

/-! ## What an encoder run does to each field -/

@[simp] theorem encoderRun_params (s : State) : (encoderRun s).params = s.params := by simp [encoderRun]
@[simp] theorem encoderRun_st (s : State) : (encoderRun s).st = s.st := by simp [encoderRun]
@[simp] theorem encoderRun_cur (s : State) : (encoderRun s).cur = s.cur := by simp [encoderRun]
@[simp] theorem encoderRun_addr (s : State) : (encoderRun s).addr = s.addr := by simp [encoderRun]
@[simp] theorem encoderRun_rb (s : State) : (encoderRun s).rb = s.rb := by simp [encoderRun]
@[simp] theorem encoderRun_tb (s : State) : (encoderRun s).tb = s.tb := by simp [encoderRun]
@[simp] theorem encoderRun_te (s : State) : (encoderRun s).te = false := by simp [encoderRun]
@[simp] theorem encoderRun_trace (s : State) : (encoderRun s).trace =
    s.trace ++ (.teHigh :: (sentBytes (frame s) s.sinkOutcome).map TxEvent.byte ++ [.teLow]) := by
  simp [encoderRun]
@[simp] theorem encoderRun_rx (s : State) : (encoderRun s).rx = s.rx := by simp [encoderRun]
@[simp] theorem encoderRun_inputs (s : State) : (encoderRun s).inputs = s.inputs := by simp [encoderRun]
@[simp] theorem encoderRun_responses (s : State) : (encoderRun s).responses = s.responses := by simp [encoderRun]
@[simp] theorem encoderRun_txs (s : State) : (encoderRun s).txs = s.txs := by simp [encoderRun]
@[simp] theorem encoderRun_takes (s : State) : (encoderRun s).takes = s.takes := by simp [encoderRun]
@[simp] theorem encoderRun_sinks (s : State) : (encoderRun s).sinks = s.sinks.tail := by simp [encoderRun]
@[simp] theorem encoderRun_takeDraws (s : State) : (encoderRun s).takeDraws = s.takeDraws := by simp [encoderRun]
@[simp] theorem encoderRun_sinkDraws (s : State) : (encoderRun s).sinkDraws = s.sinkDraws + 1 := by simp [encoderRun]

/-- An encoder run as one update. -/
theorem encoderRun_eq (s : State) :
    encoderRun s = { s with
      te := false
      trace := s.trace ++ (.teHigh :: (sentBytes (frame s) s.sinkOutcome).map TxEvent.byte ++ [.teLow])
      sinks := s.sinks.tail
      sinkDraws := s.sinkDraws + 1 } := by
  simp [encoderRun, State.setTe, State.emit, State.afterSinkDraw]

end Sys2Proof.Machine
end

