-- ==== Sys2Proof/Laws/Decoder.lean ====
section
/-! SUPPORT. The payload write, the decoder step's cases, and the decoder steps of a byte sequence. -/

namespace Sys2Proof.Machine

/-! ## The payload write -/

/-- The payload write where there is room: byte `cur` of RB, then `cur` (R185, R187). -/
theorem storePayload_room {b : Byte} {s : State} (h : s.cur < s.params.rxBytes) :
    storePayload b s = { s with rb := s.rb.put s.cur b, cur := s.cur + 1 } := by
  simp [storePayload, State.memWrite, Nat.not_le.mpr h, State.setCur]

/-- The payload write where there is none: MemWrite fails and nothing changes (R122). -/
theorem storePayload_full {b : Byte} {s : State} (h : s.params.rxBytes ≤ s.cur) : storePayload b s = s := by
  simp [storePayload, State.memWrite, h]

/-! ## One decoder step -/

/-- Everything a decoder step can do: it moves to some state and either changes nothing else but `cur` (cleared
in Preamble1, kept elsewhere), or stores the byte, or runs the encoder. -/
theorem decoderStep_cases (b : Byte) (s : State) :
    (∃ d, decoderStep b s = { s with st := d, cur := if s.st = .preamble1 then 0 else s.cur, txs := .none }) ∨
    ((s.st = .decodeData ∨ s.st = .decodeEscData) ∧ s.cur < s.params.rxBytes ∧
      decoderStep b s =
        { s with st := .decodeData, rb := s.rb.put s.cur b, cur := s.cur + 1, txs := .none }) ∨
    (s.st = .decodeCommand ∧ b = Config.CMD_POLL ∧
      decoderStep b s = { encoderRun s with st := .preamble1, txs := txStatusOf s.sinkOutcome }) := by
  unfold decoderStep
  split
  case h_1 h =>
    split <;> exact .inl ⟨_, by simp [decP1Pre, decP1Other, State.setCur, State.setSt, State.setTxs, h]; rfl⟩
  case h_2 h => split <;> exact .inl ⟨_, by simp [decP2Pre, decP2Other, State.setSt, State.setTxs, h]; rfl⟩
  case h_3 h => split <;> exact .inl ⟨_, by simp [decP3Stx, decP3Other, State.setSt, State.setTxs, h]; rfl⟩
  case h_4 h =>
    split
    · rename_i hm
      exact .inl ⟨_, by simp [decAddrMatch, hm, State.setSt, State.setTxs, h]; rfl⟩
    · exact .inl ⟨_, by simp [decAddrOther, State.setSt, State.setTxs, h]; rfl⟩
  case h_5 h =>
    split
    · exact .inl ⟨_, by simp [decCmdSet, State.setSt, State.setTxs, h]; rfl⟩
    · split
      · exact .inr (.inr ⟨h, ‹_›, rfl⟩)
      · exact .inl ⟨_, by simp [decCmdOther, State.setSt, State.setTxs, h]; rfl⟩
  case h_6 h => exact .inl ⟨_, by simp [decIgncmdAny, State.setSt, State.setTxs, h]; rfl⟩
  case h_7 h =>
    split
    · exact .inl ⟨_, by simp [decDataEsc, State.setSt, State.setTxs, h]; rfl⟩
    · split
      · exact .inl ⟨_, by simp [decDataEtx, State.setSt, State.setTxs, h]; rfl⟩
      · split
        · rename_i hr
          refine .inr (.inl ⟨.inl h, hr, ?_⟩)
          simp [decDataStore, storePayload_room hr, State.setTxs, h]
        · exact .inl ⟨.decodeData, by simp [decDataFull, State.setTxs, h]⟩
  case h_8 h =>
    split
    · rename_i hr
      refine .inr (.inl ⟨.inr h, hr, ?_⟩)
      simp [decEscStore, storePayload_room hr, State.setSt, State.setTxs]
    · exact .inl ⟨_, by simp [decEscFull, State.setSt, State.setTxs, h]; rfl⟩
  case h_9 h =>
    split
    · exact .inl ⟨_, by simp [decIgnEsc, State.setSt, State.setTxs, h]; rfl⟩
    · split
      · exact .inl ⟨_, by simp [decIgnEtx, State.setSt, State.setTxs, h]; rfl⟩
      · exact .inl ⟨.ignoreData, by simp [decIgnOther, State.setTxs, h]⟩
  case h_10 h => exact .inl ⟨_, by simp [decIgnescAny, State.setSt, State.setTxs, h]; rfl⟩
  case h_11 h => exact .inl ⟨_, by simp [decPostAny, State.setSt, State.setTxs, h]; rfl⟩

/-! The fields no decoder step writes. -/

@[simp] theorem decoderStep_params (b : Byte) (s : State) : (decoderStep b s).params = s.params := by
  rcases decoderStep_cases b s with ⟨d, h⟩ | ⟨-, -, h⟩ | ⟨-, -, h⟩ <;> simp [h]

@[simp] theorem decoderStep_addr (b : Byte) (s : State) : (decoderStep b s).addr = s.addr := by
  rcases decoderStep_cases b s with ⟨d, h⟩ | ⟨-, -, h⟩ | ⟨-, -, h⟩ <;> simp [h]

@[simp] theorem decoderStep_tb (b : Byte) (s : State) : (decoderStep b s).tb = s.tb := by
  rcases decoderStep_cases b s with ⟨d, h⟩ | ⟨-, -, h⟩ | ⟨-, -, h⟩ <;> simp [h]

@[simp] theorem decoderStep_rx (b : Byte) (s : State) : (decoderStep b s).rx = s.rx := by
  rcases decoderStep_cases b s with ⟨d, h⟩ | ⟨-, -, h⟩ | ⟨-, -, h⟩ <;> simp [h]

@[simp] theorem decoderStep_inputs (b : Byte) (s : State) : (decoderStep b s).inputs = s.inputs := by
  rcases decoderStep_cases b s with ⟨d, h⟩ | ⟨-, -, h⟩ | ⟨-, -, h⟩ <;> simp [h]

@[simp] theorem decoderStep_responses (b : Byte) (s : State) : (decoderStep b s).responses = s.responses := by
  rcases decoderStep_cases b s with ⟨d, h⟩ | ⟨-, -, h⟩ | ⟨-, -, h⟩ <;> simp [h]

@[simp] theorem decoderStep_takes (b : Byte) (s : State) : (decoderStep b s).takes = s.takes := by
  rcases decoderStep_cases b s with ⟨d, h⟩ | ⟨-, -, h⟩ | ⟨-, -, h⟩ <;> simp [h]

@[simp] theorem decoderStep_takeDraws (b : Byte) (s : State) : (decoderStep b s).takeDraws = s.takeDraws := by
  rcases decoderStep_cases b s with ⟨d, h⟩ | ⟨-, -, h⟩ | ⟨-, -, h⟩ <;> simp [h]

/-! ## The decoder steps of a byte sequence -/

@[simp] theorem feed_nil (s : State) : feed [] s = (s, false) := rfl

@[simp] theorem feed_cons_fst (b : Byte) (bs : List Byte) (s : State) :
    (feed (b :: bs) s).1 = (feed bs (decoderStep b s)).1 := rfl

@[simp] theorem feed_cons_snd (b : Byte) (bs : List Byte) (s : State) :
    (feed (b :: bs) s).2 = ((decoderStep b s).txs.failed || (feed bs (decoderStep b s)).2) := rfl

/-- Feeding one sequence after another is feeding their concatenation. -/
theorem feed_append_fst (bs cs : List Byte) (s : State) : (feed (bs ++ cs) s).1 = (feed cs (feed bs s).1).1 := by
  induction bs generalizing s with
  | nil => rfl
  | cons b bs ih => simpa using ih (decoderStep b s)

/-- A sequence reports a failure when either of its parts does. -/
theorem feed_append_snd (bs cs : List Byte) (s : State) :
    (feed (bs ++ cs) s).2 = ((feed bs s).2 || (feed cs (feed bs s).1).2) := by
  induction bs generalizing s with
  | nil => simp
  | cons b bs ih => simp [ih, Bool.or_assoc]

/-- A property that every decoder step keeps holds after any byte sequence. -/
theorem feed_induction {P : State → Prop} (hstep : ∀ b s, P s → P (decoderStep b s)) (bs : List Byte) (s : State)
    (h : P s) : P (feed bs s).1 := by
  induction bs generalizing s with
  | nil => exact h
  | cons b bs ih => exact ih _ (hstep b s h)

@[simp] theorem feed_params (bs : List Byte) (s : State) : (feed bs s).1.params = s.params := by
  induction bs generalizing s with
  | nil => rfl
  | cons b bs ih => simp [ih]

@[simp] theorem feed_addr (bs : List Byte) (s : State) : (feed bs s).1.addr = s.addr := by
  induction bs generalizing s with
  | nil => rfl
  | cons b bs ih => simp [ih]

@[simp] theorem feed_tb (bs : List Byte) (s : State) : (feed bs s).1.tb = s.tb := by
  induction bs generalizing s with
  | nil => rfl
  | cons b bs ih => simp [ih]

@[simp] theorem feed_rx (bs : List Byte) (s : State) : (feed bs s).1.rx = s.rx := by
  induction bs generalizing s with
  | nil => rfl
  | cons b bs ih => simp [ih]

@[simp] theorem feed_inputs (bs : List Byte) (s : State) : (feed bs s).1.inputs = s.inputs := by
  induction bs generalizing s with
  | nil => rfl
  | cons b bs ih => simp [ih]

@[simp] theorem feed_responses (bs : List Byte) (s : State) : (feed bs s).1.responses = s.responses := by
  induction bs generalizing s with
  | nil => rfl
  | cons b bs ih => simp [ih]

@[simp] theorem feed_takes (bs : List Byte) (s : State) : (feed bs s).1.takes = s.takes := by
  induction bs generalizing s with
  | nil => rfl
  | cons b bs ih => simp [ih]

@[simp] theorem feed_takeDraws (bs : List Byte) (s : State) : (feed bs s).1.takeDraws = s.takeDraws := by
  induction bs generalizing s with
  | nil => rfl
  | cons b bs ih => simp [ih]

end Sys2Proof.Machine
end

