-- ==== Sys2Proof/Laws/Encoding.lean ====
section
/-! SUPPORT. The fields of a word put together from fields, and of a key; the states' codes. -/

namespace Sys2Proof

@[simp] theorem opField_reqWord (op rsv : Nibble) (pos : Pos) (val : Byte) : opField (reqWord op rsv pos val) = op := by
  ext i hi
  simp (disch := omega) [opField, reqWord, BitVec.getLsbD_of_ge]

@[simp] theorem rsvField_reqWord (op rsv : Nibble) (pos : Pos) (val : Byte) :
    rsvField (reqWord op rsv pos val) = rsv := by
  ext i hi
  simp (disch := omega) [rsvField, reqWord, BitVec.getLsbD_of_ge]
  intros; omega

@[simp] theorem posField_reqWord (op rsv : Nibble) (pos : Pos) (val : Byte) :
    posField (reqWord op rsv pos val) = pos := by
  ext i hi
  simp (disch := omega) [posField, reqWord, BitVec.getLsbD_of_ge]
  intros; omega

@[simp] theorem valField_reqWord (op rsv : Nibble) (pos : Pos) (val : Byte) :
    valField (reqWord op rsv pos val) = val := by
  ext i hi
  simp (disch := omega) [valField, reqWord]
  intros; omega

/-- A word is its four fields. -/
theorem reqWord_fields (w : ReqWord) : reqWord (opField w) (rsvField w) (posField w) (valField w) = w := by
  apply BitVec.eq_of_getLsbD_eq
  intro i hi
  simp only [reqWord, opField, rsvField, posField, valField, BitVec.getLsbD_or, BitVec.getLsbD_shiftLeft,
    BitVec.getLsbD_setWidth, BitVec.getLsbD_extractLsb']
  rcases Nat.lt_or_ge i 8 with h | h
  · simp [h, hi, show i < 28 by omega, show i < 24 by omega]
  · rcases Nat.lt_or_ge i 24 with h2 | h2
    · simp [Nat.not_lt.mpr h, hi, show i < 28 by omega, h2, show 8 + (i - 8) = i by omega, show i - 8 < 16 by omega,
        show i - 8 < 32 by omega]
    · rcases Nat.lt_or_ge i 28 with h3 | h3
      · simp [Nat.not_lt.mpr h, Nat.not_lt.mpr h2, hi, h3, show 24 + (i - 24) = i by omega,
          show i - 24 < 4 by omega, show i - 24 < 32 by omega, show ¬ i - 8 < 16 by omega]
      · simp [Nat.not_lt.mpr h, Nat.not_lt.mpr h2, Nat.not_lt.mpr h3, hi, show 28 + (i - 28) = i by omega,
          show i - 28 < 4 by omega, show i - 28 < 32 by omega, show ¬ i - 8 < 16 by omega, show ¬ i - 24 < 4 by omega]

@[simp] theorem keyCode_keyOf (c : Nibble) (b : Byte) : keyCode (keyOf c b) = c := by
  ext i hi
  simp (disch := omega) [keyCode, keyOf, BitVec.getLsbD_of_ge]

@[simp] theorem keyByte_keyOf (c : Nibble) (b : Byte) : keyByte (keyOf c b) = b := by
  ext i hi
  simp (disch := omega) [keyByte, keyOf]
  intros; omega

/-- A key is its code and its byte. -/
theorem keyOf_fields (k : Key) : keyOf (keyCode k) (keyByte k) = k := by
  apply BitVec.eq_of_getLsbD_eq
  intro i hi
  simp only [keyOf, keyCode, keyByte, BitVec.getLsbD_or, BitVec.getLsbD_shiftLeft, BitVec.getLsbD_setWidth,
    BitVec.getLsbD_extractLsb']
  rcases Nat.lt_or_ge i 8 with h | h
  · simp [h, hi]
  · simp [Nat.not_lt.mpr h, hi, show 8 + (i - 8) = i by omega, show i - 8 < 4 by omega, show i - 8 < 12 by omega]

@[simp] theorem DecState.ofCode_code (st : DecState) : DecState.ofCode st.code = some st := by
  cases st <;> rfl

/-- A code that names a state is that state's code. -/
theorem DecState.code_of_ofCode : ∀ (c : Nibble) (st : DecState), DecState.ofCode c = some st → st.code = c := by
  intro c st
  cases st <;> revert c <;> decide

/-- The top byte of a word, as the masks of the HOST_REQ32 rows take it. -/
theorem reqWord_and_mask (w : ReqWord) : w &&& 0xFF000000#32 = reqWord (opField w) (rsvField w) 0#16 0#8 := by
  conv_lhs => rw [← reqWord_fields w]
  have h : (0xFF000000#32 : ReqWord) = (0xFF#32 <<< 24) := by decide
  have hf : ∀ j, j < 8 → (0xFF#32).getLsbD j = true := by decide
  rw [h]
  apply BitVec.eq_of_getLsbD_eq
  intro i hi
  simp only [reqWord, BitVec.getLsbD_and, BitVec.getLsbD_or, BitVec.getLsbD_shiftLeft, BitVec.getLsbD_setWidth,
    BitVec.getLsbD_zero, Bool.and_false, Bool.or_false]
  rcases Nat.lt_or_ge i 24 with h2 | h2
  · simp [h2, show i < 28 by omega]
  · have := hf (i - 24) (by omega)
    have hp : (posField w).getLsbD (i - 8) = false := BitVec.getLsbD_of_ge _ _ (by omega)
    have hv : (valField w).getLsbD i = false := BitVec.getLsbD_of_ge _ _ (by omega)
    simp [this, hp, hv, hi, h2]

/-- A whole key, under the full mask. -/
theorem key_and_full (k : Key) : k &&& 0xFFF#12 = k := by
  rw [show (0xFFF#12 : Key) = BitVec.allOnes 12 by decide, BitVec.and_allOnes]

/-- A key's code, as the masks of the "any other b" rows take it. -/
theorem key_and_code (k : Key) : k &&& 0xF00#12 = keyOf (keyCode k) 0#8 := by
  conv_lhs => rw [← keyOf_fields k]
  generalize keyCode k = c
  generalize keyByte k = b
  revert c b
  have h : ∀ c : Nibble, (c.setWidth 12 <<< 8) &&& 0xF00#12 = (c.setWidth 12 <<< 8 : Key) := by decide
  have h2 : ∀ b : Byte, (b.setWidth 12) &&& 0xF00#12 = 0#12 := by decide
  intro c b
  simp only [keyOf]
  rw [BitVec.and_comm, BitVec.and_or_distrib_left, BitVec.and_comm, h, BitVec.and_comm, h2]
  simp

end Sys2Proof
end

