-- ==== Sys2Proof/Laws/PerInstr.lean ====
section
/-! SUPPORT. Per instruction: a row of the opcode table with the instruction's mnemonic matches its encoding. -/

namespace Sys2Proof.Laws.RowMatch

/-- Whether a row of the opcode table with the mnemonic `m` matches an encoding. -/
def rowMatches (c : RowContext) (m : String) : Code → Prop
  | .host w => ∃ r ∈ hostTable, r.mnemonic = m ∧ r.hits w = true
  | .key k => ∃ r ∈ keyTable c, r.mnemonic = m ∧ r.hits k = true

/-- A row with the instruction's mnemonic matches the instruction's encoding, wherever the row's condition holds. -/
def Statement (i : Instr) : Prop :=
  i.wellFormed = true → ∀ c : RowContext, i.selectedIn c = true → rowMatches c i.mnemonic (encode i)

/-- A request word with no reserved bit set has its operation code under the HOST_REQ32 mask. -/
theorem host_row (m : String) (pat : ReqWord) {op : Nibble} (c : RowContext) (pos : Pos) (val : Byte)
    (hr : HostRow.mk m pat 0xFF000000#32 ∈ hostTable) (hp : reqWord op 0#4 0#16 0#8 = pat) :
    rowMatches c m (.host (reqWord op 0#4 pos val)) :=
  ⟨_, hr, rfl, by simp [HostRow.hits, reqWord_and_mask, hp]⟩

/-- A key whose row fixes its code alone. -/
theorem code_row (m : String) (pat : Key) {code : Nibble} (cond : Byte → Bool) (c : RowContext) (b : Byte)
    (hr : KeyRow.mk m pat 0xF00#12 cond ∈ keyTable c) (hp : keyOf code 0#8 = pat) (hc : cond b = true) :
    rowMatches c m (.key (keyOf code b)) :=
  ⟨_, hr, rfl, by simp [KeyRow.hits, key_and_code, hp, hc]⟩

/-- A key whose row fixes it whole. -/
theorem key_row (m : String) (k : Key) (c : RowContext) (hr : KeyRow.mk m k 0xFFF#12 (fun _ => true) ∈ keyTable c) :
    rowMatches c m (.key k) :=
  ⟨_, hr, rfl, by simp [KeyRow.hits, key_and_full]⟩

theorem init (pos : Pos) (val : Byte) : Statement (.init pos val) :=
  fun _ c _ => host_row "INIT" 0x10000000#32 c pos val (by simp [hostTable]) (by decide)

theorem setAddress (pos : Pos) (val : Byte) : Statement (.setAddress pos val) :=
  fun _ c _ => host_row "SET_ADDRESS" 0x20000000#32 c pos val (by simp [hostTable]) (by decide)

theorem process (pos : Pos) (val : Byte) : Statement (.process pos val) :=
  fun _ c _ => host_row "PROCESS" 0x30000000#32 c pos val (by simp [hostTable]) (by decide)

theorem getBit (pos : Pos) (val : Byte) : Statement (.getBit pos val) :=
  fun _ c _ => host_row "GET_BIT" 0x40000000#32 c pos val (by simp [hostTable]) (by decide)

theorem getByte (pos : Pos) (val : Byte) : Statement (.getByte pos val) :=
  fun _ c _ => host_row "GET_BYTE" 0x50000000#32 c pos val (by simp [hostTable]) (by decide)

theorem setBit (pos : Pos) (val : Byte) : Statement (.setBit pos val) :=
  fun _ c _ => host_row "SET_BIT" 0x60000000#32 c pos val (by simp [hostTable]) (by decide)

theorem setByte (pos : Pos) (val : Byte) : Statement (.setByte pos val) :=
  fun _ c _ => host_row "SET_BYTE" 0x70000000#32 c pos val (by simp [hostTable]) (by decide)

theorem transmit (pos : Pos) (val : Byte) : Statement (.transmit pos val) :=
  fun _ c _ => host_row "TRANSMIT" 0x80000000#32 c pos val (by simp [hostTable]) (by decide)

theorem illegal (word : ReqWord) : Statement (.illegal word) :=
  fun _ _ _ => ⟨_, (by simp [hostTable] : HostRow.mk "ILLEGAL" 0#32 0#32 ∈ hostTable), rfl, by simp [HostRow.hits]⟩

theorem decP1Pre : Statement .decP1Pre :=
  fun _ c _ => key_row "DEC_P1_PRE" 0x0FF#12 c (by simp [keyTable])

theorem decP1Other (b : Byte) : Statement (.decP1Other b) :=
  fun _ c _ => code_row "DEC_P1_OTHER" 0x000#12 (fun _ => true) c b (by simp [keyTable]) (by decide) rfl

theorem decP2Pre : Statement .decP2Pre :=
  fun _ c _ => key_row "DEC_P2_PRE" 0x1FF#12 c (by simp [keyTable])

theorem decP2Other (b : Byte) : Statement (.decP2Other b) :=
  fun _ c _ => code_row "DEC_P2_OTHER" 0x100#12 (fun _ => true) c b (by simp [keyTable]) (by decide) rfl

theorem decP3Stx : Statement .decP3Stx :=
  fun _ c _ => key_row "DEC_P3_STX" 0x202#12 c (by simp [keyTable])

theorem decP3Other (b : Byte) : Statement (.decP3Other b) :=
  fun _ c _ => code_row "DEC_P3_OTHER" 0x200#12 (fun _ => true) c b (by simp [keyTable]) (by decide) rfl

/-- DEC_ADDR_MATCH's match value is the key of the one byte that meets its condition. -/
theorem addr_key (a b : Byte) (h : addrMatches a b = true) :
    0x300#12 ||| BitVec.ofNat 12 (0x41 + a.toNat) = keyOf 3#4 b := by
  have hb : 0x41 + a.toNat = b.toNat := by
    simp only [addrMatches, decide_eq_true_eq, Config.ADDR_BASE] at h
    omega
  rw [hb, BitVec.ofNat_toNat]
  rfl

theorem decAddrMatch (b : Byte) : Statement (.decAddrMatch b) := by
  intro _ c h
  have hm : addrMatches c.addr b = true := h
  refine ⟨KeyRow.mk "DEC_ADDR_MATCH" (0x300#12 ||| BitVec.ofNat 12 (0x41 + c.addr.toNat)) 0xFFF#12 (addrMatches c.addr),
    by simp [keyTable], rfl, ?_⟩
  simp [KeyRow.hits, key_and_full, addr_key _ _ hm, hm]

theorem decAddrOther (b : Byte) : Statement (.decAddrOther b) :=
  fun _ c _ => code_row "DEC_ADDR_OTHER" 0x300#12 (fun _ => true) c b (by simp [keyTable]) (by decide) rfl

theorem decCmdSet : Statement .decCmdSet :=
  fun _ c _ => key_row "DEC_CMD_SET" 0x454#12 c (by simp [keyTable])

theorem decCmdPoll : Statement .decCmdPoll :=
  fun _ c _ => key_row "DEC_CMD_POLL" 0x450#12 c (by simp [keyTable])

theorem decCmdOther (b : Byte) : Statement (.decCmdOther b) :=
  fun _ c _ => code_row "DEC_CMD_OTHER" 0x400#12 (fun _ => true) c b (by simp [keyTable]) (by decide) rfl

theorem decIgncmdAny (b : Byte) : Statement (.decIgncmdAny b) :=
  fun _ c _ => code_row "DEC_IGNCMD_ANY" 0x500#12 (fun _ => true) c b (by simp [keyTable]) (by decide) rfl

theorem decDataEsc : Statement .decDataEsc :=
  fun _ c _ => key_row "DEC_DATA_ESC" 0x610#12 c (by simp [keyTable])

theorem decDataEtx : Statement .decDataEtx :=
  fun _ c _ => key_row "DEC_DATA_ETX" 0x603#12 c (by simp [keyTable])

theorem decDataStore (b : Byte) : Statement (.decDataStore b) :=
  fun _ c h => code_row "DEC_DATA_STORE" 0x600#12 (fun _ => c.room) c b (by simp [keyTable]) (by decide) h

theorem decDataFull (b : Byte) : Statement (.decDataFull b) :=
  fun _ c h => code_row "DEC_DATA_FULL" 0x600#12 (fun _ => !c.room) c b (by simp [keyTable]) (by decide) h

theorem decEscStore (b : Byte) : Statement (.decEscStore b) :=
  fun _ c h => code_row "DEC_ESC_STORE" 0x700#12 (fun _ => c.room) c b (by simp [keyTable]) (by decide) h

theorem decEscFull (b : Byte) : Statement (.decEscFull b) :=
  fun _ c h => code_row "DEC_ESC_FULL" 0x700#12 (fun _ => !c.room) c b (by simp [keyTable]) (by decide) h

theorem decIgnEsc : Statement .decIgnEsc :=
  fun _ c _ => key_row "DEC_IGN_ESC" 0x810#12 c (by simp [keyTable])

theorem decIgnEtx : Statement .decIgnEtx :=
  fun _ c _ => key_row "DEC_IGN_ETX" 0x803#12 c (by simp [keyTable])

theorem decIgnOther (b : Byte) : Statement (.decIgnOther b) :=
  fun _ c _ => code_row "DEC_IGN_OTHER" 0x800#12 (fun _ => true) c b (by simp [keyTable]) (by decide) rfl

theorem decIgnescAny (b : Byte) : Statement (.decIgnescAny b) :=
  fun _ c _ => code_row "DEC_IGNESC_ANY" 0x900#12 (fun _ => true) c b (by simp [keyTable]) (by decide) rfl

theorem decPostAny (b : Byte) : Statement (.decPostAny b) :=
  fun _ c _ => code_row "DEC_POST_ANY" 0xA00#12 (fun _ => true) c b (by simp [keyTable]) (by decide) rfl

end Sys2Proof.Laws.RowMatch
end

