-- ==== Sys2Proof/Tests/Slice0.lean ====
section
/-! SUPPORT. The model's own tests: words written out from spec/, the vectors of 95_test_vectors.md (each test names
its vector), and for every statement with premises a state and operands that meet them. -/

namespace Sys2Proof.Tests

open Sys2Proof Sys2Proof.Machine

/-! ## Helpers -/

/-- Reset(rx, tx, cfg) of 95_test_vectors.md. -/
def resetOf (rx tx : Nat) (cfg : Byte) : State := State.resetFor { rxBytes := rx, txBytes := tx, nodeAddressCfg := cfg }

/-- A state whose next PROCESS takes exactly `bs`, the last bytes of the stream. -/
def fed (s : State) (bs : List Byte) : State := { s with rx := bs, takes := [bs.length] }

/-- A state whose next sink outcomes are `os`. -/
def sinking (s : State) (os : List SinkOutcome) : State := { s with sinks := os }

/-- The decoder in state `st` with cursor `cur`, otherwise Reset(6, 3, 1). -/
def decoding (st : DecState) (cur : Nat) : State := { State.reset with st := st, cur := cur }

/-- The state an instruction leaves. -/
def after (i : Instr) (s : State) : State :=
  match exec i s with
  | .next t => t
  | .fault _ => s
  | .refused _ => s

/-- The state a step leaves. -/
def stepped (s : State) : State :=
  match step s with
  | .next t => t
  | .fault _ => s
  | .refused _ => s

/-- The bytes of RB. -/
def rbBytes (s : State) : List Byte := (List.range s.params.rxBytes).map s.rb.byteAt

/-- The bytes of TB. -/
def tbBytes (s : State) : List Byte := (List.range s.params.txBytes).map s.tb.byteAt

/-- One PROCESS of `bs`. -/
def processed (s : State) (bs : List Byte) : State := after (.process 0#16 0#8) (fed s bs)

/-- What 95_test_vectors.md writes of a decoder vector: status, st, cur, addr and RB. -/
def decoderView (s : State) : Option Status × DecState × Nat × Byte × List Byte :=
  (s.responses.getLast?.map Response.status, s.st, s.cur, s.addr, rbBytes s)

/-- The last response's status and data. -/
def answer (s : State) : Option (Status × Byte) := s.responses.getLast?.map (fun r => (r.status, r.data))

/-- X1's end state with the records dropped. -/
def x1End : State :=
  { State.reset with cur := 4, rb := [(0, 0x01#8), (1, 0x02#8), (2, 0x03#8), (3, 0x04#8)] }

/-- TB = [00, 01, 80] in Reset(6, 3, 1). -/
def groupB : State := { State.reset with tb := [(1, 0x01#8), (2, 0x80#8)] }

/-! ## Well-formedness: one ill-formed term for each check -/

theorem test_illformed_illegal : (Instr.illegal 0x40000900#32).wellFormed = false := by decide
theorem test_illformed_p1 : (Instr.decP1Other 0xFF#8).wellFormed = false := by decide
theorem test_illformed_p2 : (Instr.decP2Other 0xFF#8).wellFormed = false := by decide
theorem test_illformed_p3 : (Instr.decP3Other 0x02#8).wellFormed = false := by decide
theorem test_illformed_addr : (Instr.decAddrMatch 0x40#8).wellFormed = false := by decide
theorem test_illformed_cmd :
    (Instr.decCmdOther 0x54#8).wellFormed = false ∧ (Instr.decCmdOther 0x50#8).wellFormed = false := by decide
theorem test_illformed_data :
    (Instr.decDataStore 0x10#8).wellFormed = false ∧ (Instr.decDataStore 0x03#8).wellFormed = false ∧
    (Instr.decDataFull 0x10#8).wellFormed = false ∧ (Instr.decDataFull 0x03#8).wellFormed = false := by decide
theorem test_illformed_ign :
    (Instr.decIgnOther 0x10#8).wellFormed = false ∧ (Instr.decIgnOther 0x03#8).wellFormed = false := by decide

/-! ## Decoding: every constructor by a word or key written out from 30_encoding.md and opcode_table.json -/

/-- 95_test_vectors.md 2.6, and ILLEGAL by each of R96's grounds. -/
theorem test_decode_host_words :
    decodeHost 0x10000001#32 = .init 0#16 1#8 ∧ decodeHost 0x200000BE#32 = .setAddress 0#16 190#8 ∧
    decodeHost 0x30000000#32 = .process 0#16 0#8 ∧ decodeHost 0x40002F00#32 = .getBit 47#16 0#8 ∧
    decodeHost 0x50FFFF00#32 = .getByte 65535#16 0#8 ∧ decodeHost 0x60001701#32 = .setBit 23#16 1#8 ∧
    decodeHost 0x700002AA#32 = .setByte 2#16 0xAA#8 ∧ decodeHost 0x80000000#32 = .transmit 0#16 0#8 := by decide

theorem test_decode_illegal_words :
    decodeHost 0x00000000#32 = .illegal 0x00000000#32 ∧ decodeHost 0xF0000000#32 = .illegal 0xF0000000#32 ∧
    decodeHost 0x41000000#32 = .illegal 0x41000000#32 ∧ decodeHost 0x3F000000#32 = .illegal 0x3F000000#32 ∧
    decodeHost 0x90000000#32 = .illegal 0x90000000#32 := by decide

/-- A key of 12 bits through the table's numbering, right after reset (`addr` = 1, room in RB). -/
theorem test_decode_preamble_keys :
    decodeTableWord 12 0x0FF = some .decP1Pre ∧ decodeTableWord 12 0x003 = some (.decP1Other 0x03#8) ∧
    decodeTableWord 12 0x1FF = some .decP2Pre ∧ decodeTableWord 12 0x102 = some (.decP2Other 0x02#8) ∧
    decodeTableWord 12 0x202 = some .decP3Stx ∧ decodeTableWord 12 0x2FF = some (.decP3Other 0xFF#8) := by decide

theorem test_decode_address_and_command_keys :
    decodeTableWord 12 0x342 = some (.decAddrMatch 0x42#8) ∧ decodeTableWord 12 0x341 = some (.decAddrOther 0x41#8) ∧
    decodeTableWord 12 0x454 = some .decCmdSet ∧ decodeTableWord 12 0x450 = some .decCmdPoll ∧
    decodeTableWord 12 0x449 = some (.decCmdOther 0x49#8) ∧
    decodeTableWord 12 0x550 = some (.decIgncmdAny 0x50#8) := by decide

theorem test_decode_data_keys :
    decodeTableWord 12 0x610 = some .decDataEsc ∧ decodeTableWord 12 0x603 = some .decDataEtx ∧
    decodeTableWord 12 0x601 = some (.decDataStore 0x01#8) ∧
    decodeKey ⟨1#8, false⟩ 0x607#12 = .ok (.decDataFull 0x07#8) ∧
    decodeTableWord 12 0x703 = some (.decEscStore 0x03#8) ∧
    decodeKey ⟨1#8, false⟩ 0x703#12 = .ok (.decEscFull 0x03#8) := by decide

theorem test_decode_ignore_keys :
    decodeTableWord 12 0x810 = some .decIgnEsc ∧ decodeTableWord 12 0x803 = some .decIgnEtx ∧
    decodeTableWord 12 0x8FF = some (.decIgnOther 0xFF#8) ∧ decodeTableWord 12 0x903 = some (.decIgnescAny 0x03#8) ∧
    decodeTableWord 12 0xA07 = some (.decPostAny 0x07#8) := by decide

/-- R101: codes 11 to 15 name no state. -/
theorem test_decode_rejects_unused_codes :
    decodeTableWord 12 0xB00 = none ∧ decodeTableWord 12 0xC00 = none ∧ decodeTableWord 12 0xD00 = none ∧
    decodeTableWord 12 0xE00 = none ∧ decodeTableWord 12 0xFFF = none := by decide

/-- R103's notation and the keys of R171, R175, R179, R184. -/
theorem test_encode_words :
    encode (.getBit 47#16 0#8) = .host 0x40002F00#32 ∧ encode (.setBit 23#16 1#8) = .host 0x60001701#32 ∧
    encode (.setByte 2#16 0xAA#8) = .host 0x700002AA#32 ∧ encode (.decPostAny 0x07#8) = .key 0xA07#12 ∧
    encode (.decAddrMatch 0xFF#8) = .key 0x3FF#12 ∧ encode .decDataEtx = .key 0x603#12 := by decide

/-! ## withFetchWord and step -/

/-- 0x20000002 placed for the next step runs SET_ADDRESS 2. -/
theorem test_step_runs_placed_host_word : (stepped (State.reset.withFetchWord 32 0x20000002)).addr = 2#8 := by decide

/-- Key 0x610 placed for the next step runs DEC_DATA_ESC (R183). -/
theorem test_step_runs_placed_key : (stepped (State.reset.withFetchWord 16 0x610)).st = .decodeEscData := by decide

/-- R249: with nothing asked the core keeps all its state. -/
theorem test_step_idle : step x1End = .next x1End := rfl

/-! ## 95_test_vectors.md 1 and 2.1: the decoder -/

/-- X1, the source's own scenario. -/
theorem test_x1 :
    decoderView (processed State.reset
      [0xFF#8, 0xFF#8, 0x02#8, 0x42#8, 0x54#8, 0x01#8, 0x02#8, 0x10#8, 0x03#8, 0x04#8, 0x03#8]) =
      (some .ok, .preamble1, 4, 1#8, [0x01#8, 0x02#8, 0x03#8, 0x04#8, 0x00#8, 0x00#8]) := by decide

/-- V-DEC-08: an escaped 0x03 with RB full (R188). -/
theorem test_v_dec_08 :
    decoderView (processed (resetOf 2 3 1#8)
      [0xFF#8, 0xFF#8, 0x02#8, 0x42#8, 0x54#8, 0x01#8, 0x02#8, 0x10#8, 0x03#8, 0x04#8, 0x03#8]) =
      (some .ok, .preamble1, 2, 1#8, [0x01#8, 0x02#8]) := by decide

/-- V-DEC-10: no room at all (R186). -/
theorem test_v_dec_10 :
    decoderView (processed (resetOf 0 3 1#8) [0xFF#8, 0xFF#8, 0x02#8, 0x42#8, 0x54#8, 0x01#8, 0x03#8]) =
      (some .ok, .preamble1, 0, 1#8, []) := by decide

/-- V-DEC-12: address byte 0xFF (R177). -/
theorem test_v_dec_12 :
    decoderView (processed (resetOf 6 3 190#8) [0xFF#8, 0xFF#8, 0x02#8, 0xFF#8, 0x54#8, 0x05#8, 0x03#8]) =
      (some .ok, .preamble1, 1, 190#8, [0x05#8, 0x00#8, 0x00#8, 0x00#8, 0x00#8, 0x00#8]) := by decide

/-- V-DEC-13: 0x40 - 0x41 is negative and matches no node (R178). -/
theorem test_v_dec_13 :
    decoderView (processed State.reset [0xFF#8, 0xFF#8, 0x02#8, 0x40#8, 0x54#8, 0x05#8, 0x03#8]) =
      (some .ok, .preamble1, 0, 1#8, [0x00#8, 0x00#8, 0x00#8, 0x00#8, 0x00#8, 0x00#8]) := by decide

/-- V-DEC-14: a poll (R180). -/
theorem test_v_dec_14 :
    (processed (sinking State.reset [.ok]) [0xFF#8, 0xFF#8, 0x02#8, 0x42#8, 0x50#8, 0x03#8]).trace =
      [.teHigh, .byte 0xFF#8, .byte 0xFF#8, .byte 0x02#8, .byte 0x42#8, .byte 0x52#8, .byte 0x00#8, .byte 0x00#8,
       .byte 0x00#8, .byte 0x03#8, .teLow] := by decide

/-- V-DEC-17: a failed poll does not stop the batch (R180, R214). -/
theorem test_v_dec_17 :
    (fun s => (decoderView s, s.trace)) (processed (sinking State.reset [.fail 3])
      [0xFF#8, 0xFF#8, 0x02#8, 0x42#8, 0x50#8, 0x03#8, 0xFF#8, 0xFF#8, 0x02#8, 0x42#8, 0x54#8, 0x0A#8, 0x03#8]) =
      ((some .txFail, .preamble1, 1, 1#8, [0x0A#8, 0x00#8, 0x00#8, 0x00#8, 0x00#8, 0x00#8]),
       [.teHigh, .byte 0xFF#8, .byte 0xFF#8, .byte 0x02#8, .teLow]) := by decide

/-- V-DEC-19: after an unknown command the embedded frame is taken (R181, R193). -/
theorem test_v_dec_19 :
    decoderView (processed State.reset
      [0xFF#8, 0xFF#8, 0x02#8, 0x42#8, 0x49#8, 0x00#8, 0xFF#8, 0xFF#8, 0x02#8, 0x42#8, 0x54#8, 0x05#8, 0x03#8]) =
      (some .ok, .preamble1, 1, 1#8, [0x05#8, 0x00#8, 0x00#8, 0x00#8, 0x00#8, 0x00#8]) := by decide

/-- V-DEC-21: three 0xFF do not synchronise (R176). -/
theorem test_v_dec_21 :
    decoderView (processed State.reset [0xFF#8, 0xFF#8, 0xFF#8, 0x02#8, 0x42#8, 0x54#8, 0x01#8, 0x03#8]) =
      (some .ok, .preamble1, 0, 1#8, [0x00#8, 0x00#8, 0x00#8, 0x00#8, 0x00#8, 0x00#8]) := by decide

/-- V-DEC-24: R172, R174. -/
theorem test_v_dec_24 :
    decoderView (processed State.reset [0x02#8, 0x03#8, 0x10#8, 0xFF#8, 0x02#8, 0x41#8, 0xFF#8, 0x03#8]) =
      (some .ok, .preamble1, 0, 1#8, [0x00#8, 0x00#8, 0x00#8, 0x00#8, 0x00#8, 0x00#8]) := by decide

/-- V-DEC-27: a foreign frame with an escaped 0x03 and an embedded frame (R182, R189 to R192). -/
theorem test_v_dec_27 :
    decoderView (processed State.reset
      [0xFF#8, 0xFF#8, 0x02#8, 0x41#8, 0x54#8, 0x10#8, 0x03#8, 0xFF#8, 0xFF#8, 0x02#8, 0x42#8, 0x54#8, 0x09#8,
       0x03#8]) =
      (some .ok, .preamble1, 0, 1#8, [0x00#8, 0x00#8, 0x00#8, 0x00#8, 0x00#8, 0x00#8]) := by decide

/-- V-DEC-28: a foreign frame with an unescaped 0x03 is left early (R190, R272). -/
theorem test_v_dec_28 :
    decoderView (processed State.reset
      [0xFF#8, 0xFF#8, 0x02#8, 0x41#8, 0x52#8, 0x03#8, 0xFF#8, 0xFF#8, 0x02#8, 0x42#8, 0x54#8, 0x07#8, 0x03#8]) =
      (some .ok, .preamble1, 1, 1#8, [0x07#8, 0x00#8, 0x00#8, 0x00#8, 0x00#8, 0x00#8]) := by decide

/-- V-DEC-29: a lost ETX takes the next frame as payload (R197). -/
theorem test_v_dec_29 :
    decoderView (processed State.reset
      [0xFF#8, 0xFF#8, 0x02#8, 0x42#8, 0x54#8, 0x01#8, 0xFF#8, 0xFF#8, 0x02#8, 0x42#8, 0x54#8, 0x09#8, 0x03#8]) =
      (some .ok, .preamble1, 6, 1#8, [0x01#8, 0xFF#8, 0xFF#8, 0x02#8, 0x42#8, 0x54#8]) := by decide

/-! ## Decoder rows by their rules' examples (43_decoder.md) -/

/-- R171, R172. -/
theorem test_row_preamble1 :
    (after .decP1Pre (decoding .preamble1 4)).cur = 0 ∧ (after .decP1Pre (decoding .preamble1 4)).st = .preamble2 ∧
    (after (.decP1Other 0x03#8) (decoding .preamble1 4)).cur = 0 := by decide

/-- R173 to R176. -/
theorem test_row_preamble23 :
    (after .decP2Pre (decoding .preamble2 0)).st = .preamble3 ∧
    (after (.decP2Other 0x02#8) (decoding .preamble2 0)).st = .preamble1 ∧
    (after .decP3Stx (decoding .preamble3 0)).st = .address ∧
    (after (.decP3Other 0xFF#8) (decoding .preamble3 0)).st = .preamble1 := by decide

/-- R177 to R179, R181, R182, R193. -/
theorem test_row_address_command :
    (after (.decAddrMatch 0x42#8) (decoding .address 0)).st = .decodeCommand ∧
    (after (.decAddrOther 0x41#8) (decoding .address 0)).st = .ignoreCommand ∧
    (after .decCmdSet (decoding .decodeCommand 0)).st = .decodeData ∧
    (after (.decCmdOther 0x49#8) (decoding .decodeCommand 0)).st = .postambleOther ∧
    (after (.decIgncmdAny 0x50#8) (decoding .ignoreCommand 0)).st = .ignoreData ∧
    (after (.decPostAny 0x07#8) (decoding .postambleOther 0)).st = .preamble1 := by decide

/-- R180's example: the poll's events and status. -/
theorem test_row_poll :
    (fun s : State => (s.st, s.txs, s.te, s.trace))
      (after .decCmdPoll (sinking (decoding .decodeCommand 0) [.ok])) =
      (.preamble1, .ok, false,
       [.teHigh, .byte 0xFF#8, .byte 0xFF#8, .byte 0x02#8, .byte 0x42#8, .byte 0x52#8, .byte 0x00#8, .byte 0x00#8,
        .byte 0x00#8, .byte 0x03#8, .teLow]) := by decide

/-- R183 to R186. -/
theorem test_row_data :
    (fun s : State => (s.st, s.cur)) (after .decDataEsc (decoding .decodeData 2)) = (.decodeEscData, 2) ∧
    (fun s : State => (s.st, s.cur)) (after .decDataEtx (decoding .decodeData 4)) = (.preamble1, 4) ∧
    (fun s : State => (s.st, s.cur, rbBytes s)) (after (.decDataStore 0x01#8) (decoding .decodeData 0)) =
      (.decodeData, 1, [0x01#8, 0x00#8, 0x00#8, 0x00#8, 0x00#8, 0x00#8]) ∧
    after (.decDataFull 0x07#8) (decoding .decodeData 6) = decoding .decodeData 6 := by decide

/-- R187, R188. -/
theorem test_row_escaped_data :
    (fun s : State => (s.st, s.cur, rbBytes s)) (after (.decEscStore 0x03#8) (decoding .decodeEscData 2)) =
      (.decodeData, 3, [0x00#8, 0x00#8, 0x03#8, 0x00#8, 0x00#8, 0x00#8]) ∧
    after (.decEscFull 0x03#8) (decoding .decodeEscData 6) = decoding .decodeData 6 := by decide

/-- R189 to R192. -/
theorem test_row_ignore :
    after .decIgnEsc (decoding .ignoreData 0) = decoding .ignoreEscData 0 ∧
    after .decIgnEtx (decoding .ignoreData 0) = decoding .preamble1 0 ∧
    after (.decIgnOther 0xFF#8) (decoding .ignoreData 0) = decoding .ignoreData 0 ∧
    after (.decIgnescAny 0x03#8) (decoding .ignoreEscData 0) = decoding .ignoreData 0 := by decide

/-! ## 95_test_vectors.md 2.2: the accessors -/

/-- V-ACC-01 to V-ACC-04. -/
theorem test_v_acc_get_byte :
    answer (after (decodeHost 0x50000000#32) x1End) = some (.ok, 0x01#8) ∧
    answer (after (decodeHost 0x50000500#32) x1End) = some (.ok, 0x00#8) ∧
    answer (after (decodeHost 0x50000600#32) x1End) = some (.outOfRange, 0x00#8) ∧
    answer (after (decodeHost 0x50FFFF00#32) x1End) = some (.outOfRange, 0x00#8) := by decide

/-- V-ACC-05 to V-ACC-09. -/
theorem test_v_acc_get_bit :
    answer (after (decodeHost 0x40000100#32) x1End) = some (.ok, 0x00#8) ∧
    answer (after (decodeHost 0x40000900#32) x1End) = some (.ok, 0x01#8) ∧
    answer (after (decodeHost 0x40001100#32) x1End) = some (.ok, 0x01#8) ∧
    answer (after (decodeHost 0x40002F00#32) x1End) = some (.ok, 0x00#8) ∧
    answer (after (decodeHost 0x40003000#32) x1End) = some (.outOfRange, 0x00#8) := by decide

/-- V-ACC-10, and V-ACC-12's second request: only the one bit changes. -/
theorem test_v_acc_set_bit :
    tbBytes (after (decodeHost 0x60000901#32) State.reset) = [0x00#8, 0x02#8, 0x00#8] ∧
    tbBytes (after (decodeHost 0x60000900#32) { State.reset with tb := [(1, 0x03#8)] }) = [0x00#8, 0x01#8, 0x00#8] := by
  decide

/-- V-ACC-15, 16, 20, 21, 22. -/
theorem test_v_acc_set_bit_boundaries :
    answer (after (decodeHost 0x60001801#32) groupB) = some (.outOfRange, 0x00#8) ∧
    answer (after (decodeHost 0x60001901#32) groupB) = some (.reject, 0x00#8) ∧
    answer (after (decodeHost 0x60000002#32) groupB) = some (.illegal, 0x00#8) ∧
    answer (after (decodeHost 0x60FFFF02#32) groupB) = some (.illegal, 0x00#8) ∧
    answer (after (decodeHost 0x60FFFF01#32) groupB) = some (.reject, 0x00#8) := by decide

/-- V-ACC-19, and V-ACC-12's first request. -/
theorem test_v_acc_set_byte :
    tbBytes (after (decodeHost 0x700002AA#32) groupB) = [0x00#8, 0x01#8, 0xAA#8] ∧
    tbBytes (after (decodeHost 0x70000103#32) { State.reset with tb := [(1, 0x02#8)] }) = [0x00#8, 0x03#8, 0x00#8] := by
  decide

/-- V-ACC-17, 18, 25. -/
theorem test_v_acc_set_byte_boundaries :
    answer (after (decodeHost 0x70000377#32) groupB) = some (.outOfRange, 0x00#8) ∧
    answer (after (decodeHost 0x70000477#32) groupB) = some (.reject, 0x00#8) ∧
    tbBytes (after (decodeHost 0x70000377#32) groupB) = [0x00#8, 0x01#8, 0x80#8] ∧
    answer (after (decodeHost 0x70000001#32) (resetOf 0 0 1#8)) = some (.outOfRange, 0x00#8) ∧
    answer (after (decodeHost 0x70000101#32) (resetOf 0 0 1#8)) = some (.reject, 0x00#8) := by decide

/-! ## 95_test_vectors.md 2.3 to 2.5 -/

/-- V-ENC-02: no escaping on transmit. -/
theorem test_v_enc_02 :
    (after (.transmit 0#16 0#8)
      { sinking (resetOf 6 3 190#8) [.ok] with tb := [(0, 0x03#8), (1, 0x10#8), (2, 0xFF#8)] }).trace =
      [.teHigh, .byte 0xFF#8, .byte 0xFF#8, .byte 0x02#8, .byte 0xFF#8, .byte 0x52#8, .byte 0x03#8, .byte 0x10#8,
       .byte 0xFF#8, .byte 0x03#8, .teLow] := by decide

/-- V-ENC-03: a sink that takes no byte. -/
theorem test_v_enc_03 :
    (fun s : State => (answer s, s.trace))
      (after (.transmit 0#16 0#8) (sinking (resetOf 6 3 190#8) [.fail 0])) =
      (some (.txFail, 0x00#8), [.teHigh, .teLow]) := by decide

/-- V-HOST-01, V-HOST-02. -/
theorem test_v_host_init :
    (fun s : State => (answer s, s.addr, tbBytes s))
      (after (decodeHost 0x100000BF#32) { State.reset with tb := [(0, 0x11#8)] }) =
      (some (.reject, 0x00#8), 1#8, [0x11#8, 0x00#8, 0x00#8]) ∧
    (fun s : State => (answer s, s.addr, tbBytes s))
      (after (decodeHost 0x100000BE#32) { State.reset with tb := [(0, 0x11#8)] }) =
      (some (.ok, 0x00#8), 190#8, [0x00#8, 0x00#8, 0x00#8]) := by decide

/-- V-HOST-09: an unused field is ignored. -/
theorem test_v_host_09 : (after (decodeHost 0x10ABCD05#32) State.reset).addr = 5#8 := by decide

/-- V-HOST-03, and SET_ADDRESS of V-HOST-10 in DecodeCommand: only `addr` changes. -/
theorem test_v_host_set_address :
    (fun s : State => (answer s, s.addr)) (after (decodeHost 0x200000FF#32) (resetOf 6 3 190#8)) =
      (some (.reject, 0x00#8), 190#8) ∧
    (fun s : State => (s.st, s.addr)) (after (decodeHost 0x20000002#32) (decoding .decodeCommand 0)) =
      (.decodeCommand, 2#8) := by decide

/-- V-HOST-05: a PROCESS of no byte. -/
theorem test_v_host_05 :
    (fun s : State => (answer s, s.st, s.rx)) (processed (decoding .address 0) []) =
      (some (.ok, 0x00#8), .address, []) := by decide

/-- V-HOST-08: an illegal word consumes no byte. -/
theorem test_v_host_08 :
    (fun s : State => (answer s, s.rx, s.st))
      (after (decodeHost 0x3F000000#32) { State.reset with rx := [0xFF#8, 0xFF#8] }) =
      (some (.illegal, 0x00#8), [0xFF#8, 0xFF#8], .preamble1) := by decide

/-- R260 from the middle of a frame: a hardware reset keeps the stream. -/
theorem test_hardware_reset :
    (fun s : State => (s.st, s.cur, s.addr, s.trace, s.rx))
      (stepped { decoding .decodeData 3 with trace := [.teHigh, .teLow], rx := [0x07#8], inputs := [.reset] }) =
      (.preamble1, 0, 1#8, [], [0x07#8]) := by decide

/-- V-RST-03: no instance outside R264. -/
theorem test_v_rst_03 :
    State.build ⟨6, 3, 191#8⟩ = .refused .instanceOutsideSpec ∧
    State.build ⟨4097, 3, 1#8⟩ = .refused .instanceOutsideSpec := ⟨rfl, rfl⟩

/-! ## States and operands that meet the premises of the statements

One theorem for each statement with premises, named after it, with each clause at a boundary of its range. -/

/-- A state about to take `bs` from a stream that goes on, its decoder in `st`. -/
def receiving (st : DecState) (bs : List Byte) : State :=
  { State.reset with st := st, rx := bs ++ [0xFF#8], takes := [bs.length, 1] }

/-- A state with a word at the head of the queue. -/
def asking (w : ReqWord) : State := { State.reset with inputs := [.request w, .reset] }

theorem test_premises_DecodeOfEncodeIsTheInstruction :
    ((Instr.decAddrMatch 0xFF#8).wellFormed = true ∧ (Instr.decAddrMatch 0xFF#8).selectedIn ⟨190#8, true⟩ = true) ∧
    ((Instr.decDataFull 0x07#8).wellFormed = true ∧ (Instr.decDataFull 0x07#8).selectedIn ⟨1#8, false⟩ = true) ∧
    ((Instr.setBit 65535#16 255#8).wellFormed = true ∧ (Instr.setBit 65535#16 255#8).selectedIn ⟨1#8, true⟩ = true) := by
  decide

theorem test_premises_EncodeOfDecodeIsTheCode :
    decode ⟨190#8, true⟩ (.key 0x3FF#12) = .ok (.decAddrMatch 0xFF#8) ∧
    decode ⟨190#8, true⟩ (.host 0x90000000#32) = .ok (.illegal 0x90000000#32) := by
  decide

theorem test_premises_ExactlyOneRowAppliesToEveryByte :
    ((Instr.decP1Other 0xFE#8).wellFormed = true ∧ (Instr.decP1Other 0xFE#8).selectedIn ⟨1#8, true⟩ = true ∧
      encode (.decP1Other 0xFE#8) = .key (keyOf DecState.preamble1.code 0xFE#8)) ∧
    (decoding .decodeData 6).cur ≤ (decoding .decodeData 6).params.rxBytes := by
  decide

theorem test_premises_AddressByteAndAddressTestAgree :
    (fun s : State => s.addr.toNat ≤ 190 ∧ s.st = .address) { decoding .address 0 with addr := 190#8 } ∧
    (0x40#8).toNat ≤ 0x40 := by
  decide

theorem test_premises_StepRunsTheDecodedInstruction :
    (asking 0x20000002#32).inputs = .request 0x20000002#32 :: [.reset] ∧ State.reset.inputs = [] := by
  decide

theorem test_premises_ProcessOfOneByteRunsTheDecodedRow :
    (receiving .decodeCommand [0x50#8]).Receives [0x50#8] [0xFF#8] [1] := by
  decide

theorem test_premises_StepKeepsTheInvariant :
    { decoding .preamble1 6 with inputs := [.reset] }.Inv ∧
    step { decoding .preamble1 6 with inputs := [.reset] } = .next State.reset :=
  ⟨by decide, rfl⟩

theorem test_premises_DecoderStepKeepsTheInvariant :
    State.DecoderInv { decoding .decodeEscData 6 with addr := 190#8 } := by decide

theorem test_premises_ResetMeetsTheInvariant :
    (Params.mk 4096 4096 190#8).Valid ∧ (Params.mk 0 0 0#8).Valid := by decide

theorem test_premises_ReachableStatesMeetTheInvariant :
    Config.resetParams.Valid ∧ Reachable Config.resetParams (decoding .preamble1 0) :=
  ⟨by decide, .start _ rfl rfl rfl⟩

theorem test_premises_NoStepChangesAParameterOrADepth : step State.reset = .next State.reset := rfl

theorem test_premises_InstanceIsBuiltExactlyWithinTheConstraints :
    ((190#8).toNat ≤ 190 ∧ 4096 ≤ 4096) ∧ 190 < (191#8).toNat ∧ 4096 < 4097 := by decide

theorem test_premises_HardwareResetLeavesTheResetState :
    { groupB with inputs := [.reset] }.inputs = .reset :: [] := by decide

theorem test_premises_ResetAgreesWithInit :
    { groupB with inputs := [.reset] }.inputs = .reset :: [] ∧
    x1End.params = { groupB with inputs := [.reset] }.params ∧
    { groupB with inputs := [.reset] }.params.Valid := by
  decide

/-- Also the premises of SetAddressWritesOnlyTheAddress. -/
theorem test_premises_InitReinitialisesTheCore : 190 < (191#8).toNat ∧ (190#8).toNat ≤ 190 := by decide

theorem test_premises_ProcessFeedsTheAvailableBytesInOrder :
    (receiving .preamble1 [0xFF#8]).takes = 1 :: [1] ∧ 1 ≤ (receiving .preamble1 [0xFF#8]).rx.length := by decide

/-- Also the premises of BitReadsAgreeWithByteReads, with byte index 5 and 6. -/
theorem test_premises_GetBitReadsOneBitOfRb :
    (47#16).toNat < 8 * State.reset.params.rxBytes ∧ 8 * State.reset.params.rxBytes ≤ (48#16).toNat ∧
    (5#16).toNat = (47#16).toNat / 8 ∧ (6#16).toNat = (48#16).toNat / 8 := by
  decide

theorem test_premises_GetByteReadsOneByteOfRb :
    (5#16).toNat < State.reset.params.rxBytes ∧ State.reset.params.rxBytes ≤ (6#16).toNat := by decide

/-- Also the premises of SetBitOutcomeByRangeOfPosition and SetBitIsSeenInTheNextFrame: positions 23, 24 and 25. -/
theorem test_premises_SetBitWritesOneBitOfTb :
    groupB.tb.wf ∧ ((1#8).toNat ≤ 1 ∧ (23#16).toNat < 8 * groupB.params.txBytes) ∧ 1 < (2#8).toNat ∧
    groupB.params.txBytes < ((25#16).toNat + 7) / 8 ∧ 8 * groupB.params.txBytes < (25#16).toNat ∧
    ((24#16).toNat + 7) / 8 ≤ groupB.params.txBytes ∧ groupB.params.txBytes ≤ (24#16).toNat / 8 ∧
    (24#16).toNat = 8 * groupB.params.txBytes := by
  decide

theorem test_premises_SetByteWritesOneByteOfTb :
    groupB.tb.wf ∧ (2#16).toNat < groupB.params.txBytes ∧ (3#16).toNat = groupB.params.txBytes ∧
    groupB.params.txBytes < (4#16).toNat := by
  decide

theorem test_premises_FailingAccessorsAndReadsChangeNothing :
    Instr.setByte 4#16 0x77#8 = .getBit 4#16 0x77#8 ∨ Instr.setByte 4#16 0x77#8 = .getByte 4#16 0x77#8 ∨
    Instr.setByte 4#16 0x77#8 = .setBit 4#16 0x77#8 ∨ Instr.setByte 4#16 0x77#8 = .setByte 4#16 0x77#8 := by
  decide

theorem test_premises_FrameIsTheListedBytes :
    (resetOf 6 3 190#8).addr.toNat ≤ 190 ∧ 2 < (resetOf 6 3 190#8).params.txBytes := by decide

/-- Also the premises of PollRowRunsTheEncoder. -/
theorem test_premises_TransmitSendsTheFrameOrItsFirstBytes :
    (sinking (decoding .decodeCommand 0) [.ok]).sinkOutcome = .ok ∧
    (sinking (decoding .decodeCommand 0) [.fail 9]).sinkOutcome = .fail 9 ∧
    (sinking (decoding .decodeCommand 0) [.fail 0]).st = .decodeCommand := by
  decide

theorem test_premises_IllegalWordsOnlyRespond :
    (asking 0x3F000000#32).inputs = .request 0x3F000000#32 :: [.reset] ∧
    (0x3F000000#32).extractLsb' 24 4 ≠ 0#4 ∧ (0x00000000#32).extractLsb' 28 4 = 0#4 ∧
    9 ≤ ((0x90000000#32).extractLsb' 28 4).toNat := by
  decide

theorem test_premises_SetBytesWritesSuccessiveBytes :
    (fun s : State => s.Inv ∧ (1#16).toNat + [0x55#8, 0x00#8].length ≤ s.params.txBytes ∧
      s.inputs = (setBytesWords 1#16 [0x55#8, 0x00#8]).map HostInput.request ++ [.reset])
      { groupB with inputs := [.request 0x70000155#32, .request 0x70000200#32, .reset] } := by
  decide

theorem test_premises_PreambleOneRowsClearTheCursor : (decoding .preamble1 6).st = .preamble1 ∧ 0xFE#8 ≠ 0xFF#8 := by
  decide

theorem test_premises_PreambleTwoAndThreeRowsMoveTheState :
    ((decoding .preamble2 0).st = .preamble2 ∧ 0x02#8 ≠ 0xFF#8) ∧
    ((decoding .preamble3 0).st = .preamble3 ∧ 0xFF#8 ≠ 0x02#8) := by
  decide

theorem test_premises_AddressRowsFilterByNodeAddress :
    (decoding .address 0).st = .address ∧
    ((0x42#8).toNat : Int) - 0x41 = (decoding .address 0).addr.toNat ∧
    ((0x40#8).toNat : Int) - 0x41 ≠ (decoding .address 0).addr.toNat := by
  decide

theorem test_premises_CommandRowsChooseTheFrameKind :
    (decoding .decodeCommand 0).st = .decodeCommand ∧ 0x52#8 ≠ 0x54#8 ∧ 0x52#8 ≠ 0x50#8 := by decide

theorem test_premises_ForeignFrameRowsOnlyMoveTheState :
    (decoding .ignoreCommand 0).st = .ignoreCommand ∧
    ((decoding .ignoreData 0).st = .ignoreData ∧ 0xFF#8 ≠ 0x10#8 ∧ 0xFF#8 ≠ 0x03#8) ∧
    (decoding .ignoreEscData 0).st = .ignoreEscData := by
  decide

theorem test_premises_EscapeAndEtxRowsStoreNothing : (decoding .decodeData 4).st = .decodeData := by decide

theorem test_premises_DataRowsStoreOrDropTheByte :
    (decoding .decodeData 5).rb.wf ∧ (decoding .decodeData 5).st = .decodeData ∧ 0x00#8 ≠ 0x10#8 ∧ 0x00#8 ≠ 0x03#8 ∧
    (decoding .decodeData 5).cur < (decoding .decodeData 5).params.rxBytes ∧
    (decoding .decodeData 6).params.rxBytes ≤ (decoding .decodeData 6).cur := by
  decide

theorem test_premises_EscapedDataRowsStoreOrDropTheByte :
    (decoding .decodeEscData 5).rb.wf ∧ (decoding .decodeEscData 5).st = .decodeEscData ∧
    (decoding .decodeEscData 5).cur < (decoding .decodeEscData 5).params.rxBytes ∧
    (decoding .decodeEscData 6).params.rxBytes ≤ (decoding .decodeEscData 6).cur := by
  decide

theorem test_premises_PostambleRowDropsOneByte : (decoding .postambleOther 0).st = .postambleOther := by decide

theorem test_premises_PreambleRunSynchronisesExactlyModuloThree :
    (receiving .preamble1 [0xFF#8, 0xFF#8, 0x02#8]).st = .preamble1 ∧
    (receiving .preamble1 [0xFF#8, 0xFF#8, 0x02#8]).Receives (List.replicate 2 0xFF#8 ++ [0x02#8]) [0xFF#8] [1] ∧
    (receiving .preamble1 [0xFF#8, 0xFF#8, 0xFF#8, 0x02#8]).Receives (List.replicate 3 0xFF#8 ++ [0x02#8]) [0xFF#8] [1] := by
  decide

theorem test_premises_WithoutAPreambleNothingHappens :
    (receiving .preamble1 [0xFF#8, 0x02#8, 0xFF#8, 0xFF#8]).st = .preamble1 ∧
    (receiving .preamble1 [0xFF#8, 0x02#8, 0xFF#8, 0xFF#8]).Receives [0xFF#8, 0x02#8, 0xFF#8, 0xFF#8] [0xFF#8] [1] ∧
    ¬ [0xFF#8, 0xFF#8, 0x02#8] <:+: [0xFF#8, 0x02#8, 0xFF#8, 0xFF#8] := by
  decide

/-- V-DEC-27's bytes: a foreign frame with an escaped 0x03 and an embedded preamble. -/
theorem test_premises_ForeignFrameIsSkipped :
    (fun xs : List SentByte =>
      (receiving .preamble1 (inboundFrame 0x41#8 0x54#8 xs)).st = .preamble1 ∧
      ((0x41#8).toNat : Int) - 0x41 ≠ (receiving .preamble1 (inboundFrame 0x41#8 0x54#8 xs)).addr.toNat ∧
      (∀ x ∈ xs, x.Legal) ∧
      (receiving .preamble1 (inboundFrame 0x41#8 0x54#8 xs)).Receives (inboundFrame 0x41#8 0x54#8 xs) [0xFF#8] [1])
      [⟨true, 0x03#8⟩, ⟨false, 0xFF#8⟩, ⟨false, 0xFF#8⟩, ⟨false, 0x02#8⟩] := by
  decide

/-- X1's payload. -/
theorem test_premises_SetDataFrameFillsRb :
    (fun xs : List SentByte => (fun s : State => s.Inv ∧ s.st = .preamble1 ∧ (∀ x ∈ xs, x.Legal) ∧
      s.Receives (inboundFrame (addrByte s.addr) 0x54#8 xs) [0xFF#8] [1])
      (receiving .preamble1 (inboundFrame 0x42#8 0x54#8 xs)))
      [⟨false, 0x01#8⟩, ⟨false, 0x02#8⟩, ⟨true, 0x03#8⟩, ⟨false, 0x04#8⟩] := by
  decide

/-- With a sink that takes the frame, and with one that fails after all of its 9 bytes. -/
theorem test_premises_PollFrameIsAnsweredOnce :
    (fun s s' : State =>
      (s.Inv ∧ s.st = .preamble1 ∧ s.Receives (pollFrame s.addr) [0xFF#8] [1] ∧ s.sinkOutcome = .ok) ∧
      (s'.Inv ∧ s'.st = .preamble1 ∧ s'.Receives (pollFrame s'.addr) [0xFF#8] [1] ∧ s'.sinkOutcome = .fail 9))
      (sinking (receiving .preamble1 [0xFF#8, 0xFF#8, 0x02#8, 0x42#8, 0x50#8, 0x03#8]) [.ok])
      (sinking (receiving .preamble1 [0xFF#8, 0xFF#8, 0x02#8, 0x42#8, 0x50#8, 0x03#8]) [.fail 9]) :=
  ⟨by decide, by decide⟩

theorem test_premises_OnlyStoresWriteRbAndOnlyPollsTransmit :
    (decoderStep 0x05#8 (decoding .decodeData 5)).rb ≠ (decoding .decodeData 5).rb ∧
    (decoderStep 0x50#8 (sinking (decoding .decodeCommand 0) [.fail 0])).trace ≠ (decoding .decodeCommand 0).trace := by
  decide

theorem test_premises_EscapedEtxIsData :
    (fun s : State => s.rb.wf ∧ s.st = .decodeData ∧ s.cur < s.params.rxBytes ∧
      s.Receives [0x10#8, 0x03#8] [0xFF#8] [1])
      { receiving .decodeData [0x10#8, 0x03#8] with cur := 5 } := by
  decide

/-- V-DEC-29's lost ETX with an escaped 0x03 and a poll frame's bytes after it: from DecodeData, and from DecodeEscData
with the escape already taken and another one last. -/
theorem test_premises_LostEtxKeepsTheDecoderInTheFrame :
    (fun (xs : List SentByte) (s s' : State) =>
      (s.rb.wf ∧ s.cur ≤ s.params.rxBytes ∧ (∀ x ∈ xs, x.Legal) ∧ s.st = .decodeData ∧
        s.Receives (wirePayload xs ++ []) [0xFF#8] [1]) ∧
      (s'.rb.wf ∧ s'.cur ≤ s'.params.rxBytes ∧ s'.st = .decodeEscData ∧
        0x10#8 :: (wirePayload xs ++ [0x10#8]).tail = wirePayload xs ++ [0x10#8] ∧
        s'.Receives (wirePayload xs ++ [0x10#8]).tail [0xFF#8] [1]))
      [⟨true, 0x03#8⟩, ⟨false, 0xFF#8⟩, ⟨false, 0xFF#8⟩, ⟨false, 0x02#8⟩, ⟨false, 0x42#8⟩, ⟨false, 0x50#8⟩]
      { receiving .decodeData [0x10#8, 0x03#8, 0xFF#8, 0xFF#8, 0x02#8, 0x42#8, 0x50#8] with cur := 1 }
      { receiving .decodeEscData [0x03#8, 0xFF#8, 0xFF#8, 0x02#8, 0x42#8, 0x50#8, 0x10#8] with cur := 6 } := by
  decide

theorem test_premises_UnknownCommandDropsOneMoreByte :
    (fun s : State => s.st = .decodeCommand ∧ 0x52#8 ≠ 0x54#8 ∧ 0x52#8 ≠ 0x50#8 ∧
      s.Receives [0x52#8, 0xFF#8] [0xFF#8] [1])
      (receiving .decodeCommand [0x52#8, 0xFF#8]) := by
  decide

theorem test_premises_ProcessIsInvariantUnderSplitting :
    { State.reset with rx := [0xFF#8, 0xFF#8, 0x02#8] }.rx = [0xFF#8] ++ [0xFF#8] ++ [0x02#8] := by decide

/-- A poll, and a byte in DecodeCommand that is none. -/
theorem test_premises_OutsideAddressOnlyThePollFrameDependsOnTheAddress :
    (fun s : State => s.st ≠ .address ∧ classify s.rowContext s.st 0x50#8 = .decCmdPoll ∧
      classify s.rowContext s.st 0x54#8 ≠ .decCmdPoll) (decoding .decodeCommand 0) := by
  decide

/-- Two states that differ in TB and the trace. -/
theorem test_premises_NoResponseDependsOnTb :
    (fun s s' : State => s.SameButTbAndTrace s' ∧ s ≠ s' ∧ step s = .next (stepped s) ∧ step s' = .next (stepped s'))
      (asking 0x60000901#32)
      { asking 0x60000901#32 with tb := [(0, 0x07#8)], trace := [.teHigh, .byte 0xFF#8, .teLow] } :=
  ⟨rfl, by decide, rfl, rfl⟩

/-- Two states that differ in RB and the responses. -/
theorem test_premises_NothingSentDependsOnRb :
    (fun s s' : State => s.SameButRbAndResponses s' ∧ s ≠ s' ∧ step s = .next (stepped s) ∧
      step s' = .next (stepped s'))
      (asking 0x50000000#32)
      { asking 0x50000000#32 with rb := [(0, 0x07#8)], responses := [⟨.ok, 0x07#8, []⟩] } :=
  ⟨rfl, by decide, rfl, rfl⟩

theorem test_premises_TraceGrowsByWholeTransmissions :
    (∀ rest, (asking 0x80000000#32).inputs ≠ .reset :: rest) ∧
    step (asking 0x80000000#32) = .next (stepped (asking 0x80000000#32)) :=
  ⟨(by intro rest h; cases h), rfl⟩

theorem test_premises_EveryRequestReturnsOneResponse :
    (asking 0x40000000#32).inputs = .request 0x40000000#32 :: [.reset] ∧
    step (asking 0x40000000#32) = .next (stepped (asking 0x40000000#32)) :=
  ⟨rfl, rfl⟩

end Sys2Proof.Tests
end

/-! Proofs: what a host operation and a step can do, and the invariants of 10_state.md R34. -/

namespace Sys2Proof.Machine

/-! ## The invariant between decoder steps reads the parameters and the core alone -/

/-- A state with the same parameters and the same core tuple (R20) meets `DecoderInv` as well: the stream, the
queue, the draws, the trace and the responses do not matter. -/
theorem State.decoderInv_congr {s t : State} (hp : t.params = s.params) (hc : t.core = s.core) (h : s.DecoderInv) :
    t.DecoderInv := by
  obtain ⟨hst, hcur, haddr, hrb, htb, hte⟩ : t.st = s.st ∧ t.cur = s.cur ∧ t.addr = s.addr ∧ t.rb = s.rb ∧
      t.tb = s.tb ∧ t.te = s.te := by simpa [State.core] using hc
  simpa only [State.DecoderInv, State.CursorClear, State.BuffersOk, hp, hst, hcur, haddr, hrb, htb, hte] using h

/-- INIT's and hardware reset's state, at a legal address. -/
theorem State.initialise_decoderInv (s : State) {a : Byte} (ha : a.toNat ≤ Config.MAX_ADDRESS) :
    (s.initialise a).DecoderInv :=
  ⟨Nat.zero_le _, ha, rfl, fun hpos => absurd hpos (Nat.lt_irrefl 0), ⟨Memory.nil_wf, Memory.nil_below _⟩,
    ⟨Memory.nil_wf, Memory.nil_below _⟩⟩

theorem State.setAddr_decoderInv {s : State} {a : Byte} (ha : a.toNat ≤ Config.MAX_ADDRESS) (h : s.DecoderInv) :
    (s.setAddr a).DecoderInv := by
  obtain ⟨hcur, -, hrest⟩ := h
  exact ⟨hcur, ha, hrest⟩

/-- A byte written to TB below its depth. -/
theorem State.putTb_decoderInv {s : State} {i : Nat} (v : Byte) (hi : i < s.params.txBytes) (h : s.DecoderInv) :
    (s.setBuf .tb (s.tb.put i v)).DecoderInv := by
  obtain ⟨hcur, haddr, hte, hclear, hrb, hwf, hbelow⟩ := h
  exact ⟨hcur, haddr, hte, hclear, hrb, Memory.put_wf _ hwf i v, Memory.put_below _ _ hbelow i hi v⟩

/-- The encoder lowers TE, so from TE low it leaves the core as it was (R152, R157). -/
theorem encoderRun_core {s : State} (hte : s.te = false) : (encoderRun s).core = s.core := by
  simp [State.core, hte]

theorem encoderRun_decoderInv {s : State} (h : s.DecoderInv) : (encoderRun s).DecoderInv := by
  have ⟨_, _, hte, _⟩ := h
  exact State.decoderInv_congr (encoderRun_params s) (encoderRun_core hte) h

/-! ## The decoder step -/

/-- From the two data states a decoder step leads only to a data state or, by ETX, to Preamble1 (R183 to R188). -/
theorem decoderStep_st_of_data {s : State} (b : Byte) (h : s.st = .decodeData ∨ s.st = .decodeEscData) :
    (decoderStep b s).st = .decodeData ∨ (decoderStep b s).st = .decodeEscData ∨
      (decoderStep b s).st = .preamble1 := by
  have hstore : ∀ c, (storePayload c s).st = s.st := fun c => by
    simp only [storePayload]
    split
    · rfl
    · next hw => simp [(State.memWrite_cases hw).2]
  rcases h with h | h <;> simp only [decoderStep, h]
  · split
    · exact .inr (.inl rfl)
    · split
      · exact .inr (.inr rfl)
      · split
        · exact .inl ((hstore b).trans h)
        · exact .inl h
  · split <;> exact .inl rfl

/-- `cur` is above 0 after a decoder step only where R34 says: Preamble1's rows clear it, the data states are left
only for each other or Preamble1, and no other state is entered with it above 0. -/
theorem decoderStep_cursorClear {s : State} (b : Byte) (h : s.CursorClear) : (decoderStep b s).CursorClear := by
  intro hpos
  rcases decoderStep_cases b s with ⟨d, heq⟩ | ⟨-, -, heq⟩ | ⟨-, -, heq⟩
  · by_cases hst : s.st = .preamble1
    · simp [heq, hst] at hpos
    · have hcur : 0 < s.cur := by simpa [heq, hst] using hpos
      refine decoderStep_st_of_data b ?_
      rcases h hcur with hd | he | hp
      · exact .inl hd
      · exact .inr he
      · exact absurd hp hst
  · exact .inl (by simp [heq])
  · exact .inr (.inr (by simp [heq]))

/-- R34 between the decoder steps of a PROCESS. -/
theorem decoderStep_decoderInv (b : Byte) (s : State) (h : s.DecoderInv) : (decoderStep b s).DecoderInv := by
  have ⟨hcur, haddr, hte, hcl, ⟨hwf, hbelow⟩, htb⟩ := h
  have hclear := decoderStep_cursorClear b hcl
  rcases decoderStep_cases b s with ⟨d, heq⟩ | ⟨-, hroom, heq⟩ | ⟨-, -, heq⟩ <;> rw [heq] at hclear ⊢
  · refine ⟨?_, haddr, hte, hclear, ⟨hwf, hbelow⟩, htb⟩
    simp only
    split <;> omega
  · exact ⟨hroom, haddr, hte, hclear, ⟨Memory.put_wf _ hwf _ b, Memory.put_below _ _ hbelow _ hroom b⟩, htb⟩
  · obtain ⟨hcur', haddr', hte', -, hbufs⟩ := encoderRun_decoderInv h
    exact ⟨hcur', haddr', hte', hclear, hbufs⟩

/-! ## What a host operation can do -/

/-- Everything a host operation can do before it responds (R130 to R137, R158, R210 to R218). -/
inductive HostEffect (s : State) : State → Prop where
  /-- A read, a refused or failing operation, an ILLEGAL word. -/
  | unchanged : HostEffect s s
  /-- INIT with a legal address. -/
  | initialised (a : Byte) (ha : a.toNat ≤ Config.MAX_ADDRESS) : HostEffect s (s.initialise a)
  /-- SET_ADDRESS with a legal address. -/
  | addressed (a : Byte) (ha : a.toNat ≤ Config.MAX_ADDRESS) : HostEffect s (s.setAddr a)
  /-- PROCESS. -/
  | processed : HostEffect s (feed (s.rx.take s.available) s.consume).1
  /-- SET_BIT or SET_BYTE within TB. -/
  | wroteTb (i : Nat) (v : Byte) (hi : i < s.params.txBytes) : HostEffect s (s.setBuf .tb (s.tb.put i v))
  /-- TRANSMIT. -/
  | encoded : HostEffect s (encoderRun s)

/-- A host operation that answers `t` has one of the effects and then gives one response (R94). -/
def Responds (s t : State) : Prop := ∃ u r, HostEffect s u ∧ t = u.respond r

theorem responds_fail (s : State) (e : Status) : Responds s (s.fail e) := ⟨s, _, .unchanged, rfl⟩

theorem HostEffect.responds_done {s u : State} (h : HostEffect s u) (d : Byte) : Responds s (u.done d) :=
  ⟨u, _, h, rfl⟩

/-- A MemWrite to TB that succeeds is the effect of SET_BIT and SET_BYTE. -/
theorem hostEffect_of_memWrite_tb {s t : State} {i : Nat} {v : Byte} (h : s.memWrite .tb i v = some t) :
    HostEffect s t := by
  obtain ⟨hi, rfl⟩ := State.memWrite_cases h
  exact .wroteTb i v hi

theorem hostEffect_of_writeTbBit {s t : State} {pos : Pos} {v : Bool} (h : writeTbBit s pos v = some t) :
    HostEffect s t := by
  simp only [writeTbBit] at h
  split at h
  · cases h
  · exact hostEffect_of_memWrite_tb h

theorem exec_init_responds {pos : Pos} {val : Byte} {s t : State} (h : exec (.init pos val) s = .next t) :
    Responds s t := by
  simp only [exec, execInit] at h
  split at h <;> cases h
  · exact responds_fail s _
  · exact (HostEffect.initialised val (by omega)).responds_done _

theorem exec_setAddress_responds {pos : Pos} {val : Byte} {s t : State} (h : exec (.setAddress pos val) s = .next t) :
    Responds s t := by
  simp only [exec, execSetAddress] at h
  split at h <;> cases h
  · exact responds_fail s _
  · exact (HostEffect.addressed val (by omega)).responds_done _

theorem exec_process_responds {pos : Pos} {val : Byte} {s t : State} (h : exec (.process pos val) s = .next t) :
    Responds s t := by
  cases h
  exact ⟨_, _, .processed, rfl⟩

theorem exec_getBit_responds {pos : Pos} {val : Byte} {s t : State} (h : exec (.getBit pos val) s = .next t) :
    Responds s t := by
  simp only [exec, execGetBit] at h
  split at h <;> cases h
  · exact responds_fail s _
  · exact HostEffect.unchanged.responds_done _

theorem exec_getByte_responds {pos : Pos} {val : Byte} {s t : State} (h : exec (.getByte pos val) s = .next t) :
    Responds s t := by
  simp only [exec, execGetByte] at h
  split at h <;> cases h
  · exact responds_fail s _
  · exact HostEffect.unchanged.responds_done _

theorem exec_setBit_responds {pos : Pos} {val : Byte} {s t : State} (h : exec (.setBit pos val) s = .next t) :
    Responds s t := by
  simp only [exec, execSetBit] at h
  split at h
  · cases h
    exact responds_fail s _
  · split at h
    · cases h
      exact responds_fail s _
    · split at h <;> cases h
      · exact responds_fail s _
      · next hw => exact (hostEffect_of_writeTbBit hw).responds_done _

theorem exec_setByte_responds {pos : Pos} {val : Byte} {s t : State} (h : exec (.setByte pos val) s = .next t) :
    Responds s t := by
  simp only [exec, execSetByte] at h
  split at h
  · cases h
    exact responds_fail s _
  · split at h <;> cases h
    · exact responds_fail s _
    · next hw => exact (hostEffect_of_memWrite_tb hw).responds_done _

theorem exec_transmit_responds {pos : Pos} {val : Byte} {s t : State} (h : exec (.transmit pos val) s = .next t) :
    Responds s t := by
  cases h
  exact ⟨_, _, .encoded, rfl⟩

theorem exec_illegal_responds {w : ReqWord} {s t : State} (h : exec (.illegal w) s = .next t) : Responds s t := by
  cases h
  exact responds_fail s _

/-- Whatever a request word spells, running it has one of the effects and gives one response. -/
theorem exec_decodeHost_responds {w : ReqWord} {s t : State} (h : exec (decodeHost w) s = .next t) :
    Responds s t := by
  simp only [decodeHost] at h
  split at h
  · split at h
    · exact exec_init_responds h
    · exact exec_setAddress_responds h
    · exact exec_process_responds h
    · exact exec_getBit_responds h
    · exact exec_getByte_responds h
    · exact exec_setBit_responds h
    · exact exec_setByte_responds h
    · exact exec_transmit_responds h
    · exact exec_illegal_responds h
  · exact exec_illegal_responds h

/-- Everything a step can do: nothing, a hardware reset, or one host operation, with the input taken. -/
theorem step_cases {s t : State} (h : step s = .next t) :
    (s.inputs = [] ∧ t = s) ∨
    (∃ rest, s.inputs = .reset :: rest ∧ t = State.hardwareReset { s with inputs := rest }) ∨
    ∃ w rest, s.inputs = .request w :: rest ∧ Responds { s with inputs := rest } t := by
  simp only [step, State.nextInput] at h
  cases hin : s.inputs with
  | nil =>
    simp only [hin] at h
    cases h
    exact .inl ⟨rfl, rfl⟩
  | cons i rest =>
    cases i with
    | request w =>
      simp only [hin] at h
      exact .inr (.inr ⟨w, rest, rfl, exec_decodeHost_responds h⟩)
    | reset =>
      simp only [hin] at h
      cases h
      exact .inr (.inl ⟨rest, rfl, rfl⟩)

/-! ## The invariant at operation boundaries -/

theorem HostEffect.params_eq {s u : State} (h : HostEffect s u) : u.params = s.params := by
  cases h <;> simp

theorem HostEffect.decoderInv {s u : State} (h : HostEffect s u) (hs : s.DecoderInv) : u.DecoderInv := by
  cases h with
  | unchanged => exact hs
  | initialised a ha => exact s.initialise_decoderInv ha
  | addressed a ha => exact State.setAddr_decoderInv ha hs
  | processed => exact feed_induction decoderStep_decoderInv _ _ (State.decoderInv_congr rfl rfl hs)
  | wroteTb i v hi => exact State.putTb_decoderInv v hi hs
  | encoded => exact encoderRun_decoderInv hs

theorem Responds.params_eq {s t : State} (h : Responds s t) : t.params = s.params := by
  obtain ⟨u, r, he, rfl⟩ := h
  exact he.params_eq

theorem Responds.decoderInv {s t : State} (h : Responds s t) (hs : s.DecoderInv) : t.DecoderInv := by
  obtain ⟨u, r, he, rfl⟩ := h
  exact State.decoderInv_congr rfl rfl (he.decoderInv hs)

/-- No step writes a parameter (R6). -/
theorem step_params {s t : State} (h : step s = .next t) : t.params = s.params := by
  rcases step_cases h with ⟨-, rfl⟩ | ⟨rest, -, rfl⟩ | ⟨w, rest, -, hr⟩
  · rfl
  · rfl
  · exact hr.params_eq

/-- R34: from valid parameters, whose configured address is the one a reset puts in `addr`, every step keeps the
invariant. -/
theorem step_decoderInv {s t : State} (hv : s.params.Valid) (hs : s.DecoderInv) (h : step s = .next t) :
    t.DecoderInv := by
  rcases step_cases h with ⟨-, rfl⟩ | ⟨rest, -, rfl⟩ | ⟨w, rest, -, hr⟩
  · exact hs
  · exact State.decoderInv_congr rfl rfl (s.initialise_decoderInv hv.1)
  · exact hr.decoderInv (State.decoderInv_congr rfl rfl hs)

theorem step_inv {s t : State} (hs : s.Inv) (h : step s = .next t) : t.Inv := by
  obtain ⟨hv, hd⟩ := hs
  exact ⟨(step_params h).symm ▸ hv, step_decoderInv hv hd h⟩

/-- The reset core under valid parameters meets the invariant, whatever stands around it. -/
theorem State.inv_of_reset_core {p : Params} {s : State} (hv : p.Valid) (hp : s.params = p)
    (hc : s.core = (State.resetFor p).core) : s.Inv :=
  ⟨hp.symm ▸ hv, State.decoderInv_congr hp hc ((State.resetFor p).initialise_decoderInv hv.1)⟩

/-! ## The obligations -/

/-- Settles O12: a step idles, resets or runs one host operation, and each effect a host operation can have keeps
the invariant. -/
theorem stepKeepsTheInvariant : Obligations.StepKeepsTheInvariant := fun _ _ => step_inv

/-- Settles O13, along the cases of a decoder step. -/
theorem decoderStepKeepsTheInvariant : Obligations.DecoderStepKeepsTheInvariant := fun s b =>
  decoderStep_decoderInv b s

/-- Settles O15, by induction on how the state is reached. -/
theorem reachableStatesMeetTheInvariant : Obligations.ReachableStatesMeetTheInvariant := by
  unfold Obligations.ReachableStatesMeetTheInvariant
  intro p s hv hr
  induction hr with
  | start s hp hc _ => exact ⟨State.inv_of_reset_core hv hp hc, hp⟩
  | next s t _ hstep ih =>
    obtain ⟨hinv, hp⟩ := ih
    exact ⟨step_inv hinv hstep, (step_params hstep).trans hp⟩

end Sys2Proof.Machine

/-! Proofs: what flows from the two frame buffers, and where it goes (20_memory.md R51). -/

namespace Sys2Proof.Machine

/-! ## Two states with the same control

Of all fields only RB, TB, the trace and the responses can hold what a buffer held. The others, the control, evolve
alike whatever these four hold; RB reaches the responses alone, and TB the trace alone. -/

/-- Two states that agree in everything but the two buffers, the trace and the responses. -/
def State.SameControl (s s' : State) : Prop :=
  ∃ rb tb trace responses, s' = { s with rb := rb, tb := tb, trace := trace, responses := responses }

/-- They agree in RB and in the responses, where RB's bytes can go. -/
def State.SameReceiveSide (s s' : State) : Prop := s'.rb = s.rb ∧ s'.responses = s.responses

/-- They agree in TB and in the trace, where TB's bytes can go. -/
def State.SameTransmitSide (s s' : State) : Prop := s'.tb = s.tb ∧ s'.trace = s.trace

theorem State.sameButTbAndTrace_iff {s s' : State} :
    s.SameButTbAndTrace s' ↔ s.SameControl s' ∧ s.SameReceiveSide s' := by
  constructor
  · exact fun h => ⟨⟨s.rb, s'.tb, s'.trace, s.responses, h⟩, (congrArg State.rb h :), (congrArg State.responses h :)⟩
  · rintro ⟨⟨rb, tb, tr, rs, rfl⟩, hrb, hrs⟩
    simp only at hrb hrs
    rw [hrb, hrs]

theorem State.sameButRbAndResponses_iff {s s' : State} :
    s.SameButRbAndResponses s' ↔ s.SameControl s' ∧ s.SameTransmitSide s' := by
  constructor
  · exact fun h => ⟨⟨s'.rb, s.tb, s.trace, s'.responses, h⟩, (congrArg State.tb h :), (congrArg State.trace h :)⟩
  · rintro ⟨⟨rb, tb, tr, rs, rfl⟩, htb, htr⟩
    simp only at htb htr
    rw [htb, htr]

/-- The information flow from `s`, `s'` to `t`, `t'`: these have the same control, and on each side they agree
where `s` and `s'` did. -/
structure Flow (s s' t t' : State) : Prop where
  control : t.SameControl t'
  receive : s.SameReceiveSide s' → t.SameReceiveSide t'
  transmit : s.SameTransmitSide s' → t.SameTransmitSide t'

theorem Flow.refl {s s' : State} (h : s.SameControl s') : Flow s s' s s' := ⟨h, id, id⟩

theorem Flow.trans {s s' t t' u u' : State} (h : Flow s s' t t') (k : Flow t t' u u') : Flow s s' u u' :=
  ⟨k.control, k.receive ∘ h.receive, k.transmit ∘ h.transmit⟩

namespace State.SameControl

variable {s s' : State}

/-! ## What the operations read of the control -/

theorem params_eq (h : s.SameControl s') : s'.params = s.params := by
  obtain ⟨_, _, _, _, rfl⟩ := h
  rfl

theorem st_eq (h : s.SameControl s') : s'.st = s.st := by
  obtain ⟨_, _, _, _, rfl⟩ := h
  rfl

theorem cur_eq (h : s.SameControl s') : s'.cur = s.cur := by
  obtain ⟨_, _, _, _, rfl⟩ := h
  rfl

theorem addr_eq (h : s.SameControl s') : s'.addr = s.addr := by
  obtain ⟨_, _, _, _, rfl⟩ := h
  rfl

theorem inputs_eq (h : s.SameControl s') : s'.inputs = s.inputs := by
  obtain ⟨_, _, _, _, rfl⟩ := h
  rfl

theorem txs_eq (h : s.SameControl s') : s'.txs = s.txs := by
  obtain ⟨_, _, _, _, rfl⟩ := h
  rfl

theorem sinkOutcome_eq (h : s.SameControl s') : s'.sinkOutcome = s.sinkOutcome := by
  obtain ⟨_, _, _, _, rfl⟩ := h
  rfl

/-- The bytes that a PROCESS takes (R214). -/
theorem taken_eq (h : s.SameControl s') : s'.rx.take s'.available = s.rx.take s.available := by
  obtain ⟨_, _, _, _, rfl⟩ := h
  rfl

end State.SameControl

/-! ## The updates, each after what led to the states it updates -/

/-- An update that neither reads nor writes the two buffers, the trace and the responses. -/
def ControlOnly (f : State → State) : Prop :=
  ∀ t rb tb trace responses, f { t with rb := rb, tb := tb, trace := trace, responses := responses } =
    { f t with rb := rb, tb := tb, trace := trace, responses := responses }

namespace Flow

variable {s s' t t' : State}

theorem update (h : Flow s s' t t') {f : State → State} (hf : ControlOnly f) : Flow s s' (f t) (f t') := by
  have hkeep : f t = { f t with rb := t.rb, tb := t.tb, trace := t.trace, responses := t.responses } :=
    hf t t.rb t.tb t.trace t.responses
  obtain ⟨⟨rb, tb, tr, rs, rfl⟩, hr, ht⟩ := h
  rw [hf t rb tb tr rs, hkeep]
  exact ⟨⟨_, _, _, _, rfl⟩, hr, ht⟩

theorem setSt (h : Flow s s' t t') (d : DecState) : Flow s s' (t.setSt d) (t'.setSt d) :=
  h.update (f := (State.setSt · d)) fun _ _ _ _ _ => rfl

theorem setCur (h : Flow s s' t t') (n : Nat) : Flow s s' (t.setCur n) (t'.setCur n) :=
  h.update (f := (State.setCur · n)) fun _ _ _ _ _ => rfl

theorem setAddr (h : Flow s s' t t') (a : Byte) : Flow s s' (t.setAddr a) (t'.setAddr a) :=
  h.update (f := (State.setAddr · a)) fun _ _ _ _ _ => rfl

theorem setTxs (h : Flow s s' t t') (x : TxStatus) : Flow s s' (t.setTxs x) (t'.setTxs x) :=
  h.update (f := (State.setTxs · x)) fun _ _ _ _ _ => rfl

theorem consume (h : Flow s s' t t') : Flow s s' t.consume t'.consume := h.update fun _ _ _ _ _ => rfl

theorem setInputs (h : Flow s s' t t') (is : List HostInput) :
    Flow s s' { t with inputs := is } { t' with inputs := is } :=
  h.update (f := fun t => { t with inputs := is }) fun _ _ _ _ _ => rfl

/-- One byte written to RB, the same on each side. -/
theorem putRb (h : Flow s s' t t') (i : Nat) (v : Byte) :
    Flow s s' (t.setBuf .rb (t.rb.put i v)) (t'.setBuf .rb (t'.rb.put i v)) := by
  obtain ⟨⟨rb, tb, tr, rs, rfl⟩, hr, ht⟩ := h
  exact ⟨⟨_, _, _, _, rfl⟩, fun hs => ⟨congrArg (Memory.put · i v) (hr hs).1, (hr hs).2⟩, ht⟩

/-- New contents of TB on each side, the same wherever TB was. -/
theorem setTb (h : Flow s s' t t') {m m' : Memory} (hm : t'.tb = t.tb → m' = m) :
    Flow s s' (t.setBuf .tb m) (t'.setBuf .tb m') := by
  obtain ⟨⟨rb, tb, tr, rs, rfl⟩, hr, ht⟩ := h
  exact ⟨⟨_, _, _, _, rfl⟩, hr, fun hs => ⟨hm (ht hs).1, (ht hs).2⟩⟩

/-- One more response on each side, the same one wherever RB was. -/
theorem respond (h : Flow s s' t t') {r r' : Response} (hrs : t'.rb = t.rb → r' = r) :
    Flow s s' (t.respond r) (t'.respond r') := by
  obtain ⟨⟨rb, tb, tr, rs, rfl⟩, hr, ht⟩ := h
  refine ⟨⟨_, _, _, _, rfl⟩, fun hs => ⟨(hr hs).1, ?_⟩, ht⟩
  obtain ⟨hrb, hrs'⟩ := hr hs
  rw [State.respond_responses, State.respond_responses, hrs', hrs hrb]

theorem done (h : Flow s s' t t') (d : Byte) : Flow s s' (t.done d) (t'.done d) := h.respond fun _ => rfl

theorem fail (h : Flow s s' t t') (e : Status) : Flow s s' (t.fail e) (t'.fail e) := h.respond fun _ => rfl

/-- Both buffers are cleared. -/
theorem initialise (h : Flow s s' t t') (a : Byte) : Flow s s' (t.initialise a) (t'.initialise a) := by
  obtain ⟨⟨rb, tb, tr, rs, rfl⟩, hr, ht⟩ := h
  exact ⟨⟨_, _, _, _, rfl⟩, fun hs => ⟨rfl, (hr hs).2⟩, fun hs => ⟨rfl, (ht hs).2⟩⟩

theorem hardwareReset (h : Flow s s' t t') : Flow s s' t.hardwareReset t'.hardwareReset := by
  obtain ⟨⟨rb, tb, tr, rs, rfl⟩, hr, ht⟩ := h
  exact ⟨⟨_, _, _, _, rfl⟩, fun hs => ⟨rfl, (hr hs).2⟩, fun _ => ⟨rfl, rfl⟩⟩

/-- An encoder run reads TB into the trace (R151, R152). -/
theorem encoderRun (h : Flow s s' t t') : Flow s s' (encoderRun t) (encoderRun t') := by
  have hc := h.control
  refine ⟨?_, fun hs => by simpa [State.SameReceiveSide] using h.receive hs, fun hs => ?_⟩
  · obtain ⟨rb, tb, tr, rs, rfl⟩ := hc
    exact ⟨rb, tb, _, rs, encoderRun_eq _⟩
  · obtain ⟨htb, htr⟩ := h.transmit hs
    refine ⟨by simpa using htb, ?_⟩
    rw [encoderRun_trace, encoderRun_trace, htr, frame_congr hc.params_eq htb hc.addr_eq, hc.sinkOutcome_eq]

/-! ## The decoder -/

/-- The payload write changes RB by the byte alone, and whether there is room is in the control (R185, R187). -/
theorem storePayload (h : Flow s s' t t') (b : Byte) : Flow s s' (storePayload b t) (storePayload b t') := by
  have hcur := h.control.cur_eq
  have hp := h.control.params_eq
  rcases Nat.lt_or_ge t.cur t.params.rxBytes with hroom | hfull
  · rw [storePayload_room hroom, storePayload_room (by rwa [hcur, hp]), hcur]
    exact (h.putRb t.cur b).setCur (t.cur + 1)
  · rwa [storePayload_full hfull, storePayload_full (by rwa [hcur, hp])]

/-- The row is chosen by the control alone (R170), and only the store rows and the poll touch a buffer. -/
theorem decoderStep (h : Flow s s' t t') (b : Byte) : Flow s s' (decoderStep b t) (decoderStep b t') := by
  have move : ∀ d, Flow s s' ((t.setSt d).setTxs .none) ((t'.setSt d).setTxs .none) := fun d =>
    (h.setSt d).setTxs .none
  cases hst : t.st with simp only [Machine.decoderStep, h.control.st_eq, h.control.addr_eq, h.control.cur_eq,
    h.control.params_eq, hst]
  | preamble1 => split <;> exact ((h.setCur 0).setSt _).setTxs .none
  | preamble2 | preamble3 => split <;> exact move _
  | address =>
    split
    · next hm =>
      simp only [decAddrMatch, h.control.addr_eq, hm]
      exact move _
    · exact move _
  | decodeCommand =>
    split
    · exact move _
    · split
      · simp only [decCmdPoll, h.control.sinkOutcome_eq]
        exact (h.encoderRun.setSt _).setTxs _
      · exact move _
  | ignoreCommand | ignoreEscData | postambleOther => exact move _
  | decodeData =>
    split
    · exact move _
    · split
      · exact move _
      · split
        · exact (h.storePayload b).setTxs .none
        · exact h.setTxs .none
  | decodeEscData =>
    split
    · exact ((h.storePayload b).setSt _).setTxs .none
    · exact move _
  | ignoreData =>
    split
    · exact move _
    · split
      · exact move _
      · exact h.setTxs .none

theorem feed (h : Flow s s' t t') (bs : List Byte) : Flow s s' (feed bs t).1 (feed bs t').1 := by
  induction bs generalizing t t' with
  | nil => exact h
  | cons b bs ih => exact ih (h.decoderStep b)

end Flow

/-- Whether a poll failed is in the control. -/
theorem State.SameControl.feed_failed {s s' : State} (h : s.SameControl s') (bs : List Byte) :
    (feed bs s').2 = (feed bs s).2 := by
  induction bs generalizing s s' with
  | nil => rfl
  | cons b bs ih =>
    have hstep := ((Flow.refl h).decoderStep b).control
    rw [feed_cons_snd, feed_cons_snd, hstep.txs_eq, ih hstep]

/-! ## A host operation and a step -/

/-- Both operations complete, and information flows as `Flow` says. -/
def FlowNext (s s' : State) (o o' : Host.Outcome State Fault Refusal) : Prop :=
  ∃ t t', o = .next t ∧ o' = .next t' ∧ Flow s s' t t'

theorem Flow.next {s s' t t' : State} (h : Flow s s' t t') : FlowNext s s' (.next t) (.next t') :=
  ⟨t, t', rfl, rfl, h⟩

section

variable {s s' : State} (pos : Pos) (val : Byte)

theorem execInit_flow (h : s.SameControl s') : FlowNext s s' (execInit pos val s) (execInit pos val s') := by
  simp only [execInit]
  split
  · exact ((Flow.refl h).fail _).next
  · exact (((Flow.refl h).initialise val).done _).next

theorem execSetAddress_flow (h : s.SameControl s') :
    FlowNext s s' (execSetAddress pos val s) (execSetAddress pos val s') := by
  simp only [execSetAddress]
  split
  · exact ((Flow.refl h).fail _).next
  · exact (((Flow.refl h).setAddr val).done _).next

theorem execProcess_flow (h : s.SameControl s') :
    FlowNext s s' (execProcess pos val s) (execProcess pos val s') := by
  have hconsume := (Flow.refl h).consume
  simp only [execProcess, h.taken_eq, hconsume.control.feed_failed]
  exact ((hconsume.feed _).respond fun _ => rfl).next

/-- What a read answers, `data` being what it makes of the byte (R130, R132). -/
def readResponse (data : Byte → Byte) : Option Byte → Response
  | none => { status := .outOfRange, data := 0x00#8, bytes := [] }
  | some b => { status := .ok, data := data b, bytes := [] }

theorem execGetBit_eq : execGetBit pos val s =
    .next (s.respond (readResponse (fun b => bitOf b (bitIndex pos)) (s.memRead .rb (byteIndex pos)))) := by
  simp only [execGetBit]
  cases s.memRead .rb (byteIndex pos) <;> rfl

theorem execGetByte_eq : execGetByte pos val s =
    .next (s.respond (readResponse id (s.memRead .rb pos.toNat))) := by
  simp only [execGetByte]
  cases s.memRead .rb pos.toNat <;> rfl

/-- A read of RB answers alike where RB and its depth are alike. -/
theorem readResponse_flow (h : s.SameControl s') (data : Byte → Byte) (i : Nat) :
    FlowNext s s' (.next (s.respond (readResponse data (s.memRead .rb i))))
      (.next (s'.respond (readResponse data (s'.memRead .rb i)))) :=
  ((Flow.refl h).respond fun hrb => congrArg (readResponse data) (State.memRead_congr .rb h.params_eq hrb i)).next

theorem execGetBit_flow (h : s.SameControl s') : FlowNext s s' (execGetBit pos val s) (execGetBit pos val s') := by
  rw [execGetBit_eq, execGetBit_eq]
  exact readResponse_flow h _ _

theorem execGetByte_flow (h : s.SameControl s') : FlowNext s s' (execGetByte pos val s) (execGetByte pos val s') := by
  rw [execGetByte_eq, execGetByte_eq]
  exact readResponse_flow h _ _

/-- A change of one bit of TB as one write (R134). -/
theorem writeTbBit_eq (s : State) (v : Bool) : writeTbBit s pos v =
    s.memWrite .tb (byteIndex pos) (withBit (s.tb.byteAt (byteIndex pos)) (bitIndex pos) v) := by
  rcases Nat.lt_or_ge (byteIndex pos) (s.bufLen .tb) with hi | hi
  · simp only [writeTbBit, State.memRead_eq_some hi, State.buf]
  · simp only [writeTbBit, State.memRead_eq_none.mpr hi, State.memWrite_eq_none.mpr hi]

/-- SET_BIT and SET_BYTE end with a MemWrite to TB, which fails or succeeds by the control alone (R122). -/
theorem memWrite_tb_flow (h : s.SameControl s') (i : Nat) {v v' : Byte} (hv : s'.tb = s.tb → v' = v) :
    (s.memWrite .tb i v = none ∧ s'.memWrite .tb i v' = none) ∨
      ∃ t t', s.memWrite .tb i v = some t ∧ s'.memWrite .tb i v' = some t' ∧ Flow s s' t t' := by
  have hlen : s'.bufLen .tb = s.bufLen .tb := congrArg Params.txBytes h.params_eq
  rcases Nat.lt_or_ge i (s.bufLen .tb) with hi | hi
  · refine .inr ⟨_, _, if_neg (by omega), if_neg (by omega), (Flow.refl h).setTb fun htb => ?_⟩
    rw [hv htb]
    exact congrArg (Memory.put · i v) htb
  · exact .inl ⟨State.memWrite_eq_none.mpr hi, State.memWrite_eq_none.mpr (by omega)⟩

theorem execSetBit_flow (h : s.SameControl s') : FlowNext s s' (execSetBit pos val s) (execSetBit pos val s') := by
  have hrejects : setBitRejects s' pos = setBitRejects s pos := by simp only [setBitRejects, h.params_eq]
  have hbyte : s'.tb = s.tb →
      withBit (s'.tb.byteAt (byteIndex pos)) (bitIndex pos) (decide (val = 1#8)) =
        withBit (s.tb.byteAt (byteIndex pos)) (bitIndex pos) (decide (val = 1#8)) := fun htb => by rw [htb]
  simp only [execSetBit, hrejects, writeTbBit_eq]
  split
  · exact ((Flow.refl h).fail _).next
  · split
    · exact ((Flow.refl h).fail _).next
    · rcases memWrite_tb_flow h (byteIndex pos) hbyte with ⟨hw, hw'⟩ | ⟨t, t', hw, hw', ht⟩ <;> rw [hw, hw']
      · exact ((Flow.refl h).fail _).next
      · exact (ht.done _).next

theorem execSetByte_flow (h : s.SameControl s') : FlowNext s s' (execSetByte pos val s) (execSetByte pos val s') := by
  have hrejects : setByteRejects s' pos = setByteRejects s pos := by simp only [setByteRejects, h.params_eq]
  simp only [execSetByte, hrejects]
  split
  · exact ((Flow.refl h).fail _).next
  · rcases memWrite_tb_flow h pos.toNat (v := val) fun _ => rfl with ⟨hw, hw'⟩ | ⟨t, t', hw, hw', ht⟩ <;>
      rw [hw, hw']
    · exact ((Flow.refl h).fail _).next
    · exact (ht.done _).next

theorem execTransmit_flow (h : s.SameControl s') :
    FlowNext s s' (execTransmit pos val s) (execTransmit pos val s') := by
  simp only [execTransmit, h.sinkOutcome_eq]
  exact ((Flow.refl h).encoderRun.respond fun _ => rfl).next

end

theorem execIllegal_flow {s s' : State} (w : ReqWord) (h : s.SameControl s') :
    FlowNext s s' (execIllegal w s) (execIllegal w s') := ((Flow.refl h).fail _).next

theorem exec_decodeHost_flow {s s' : State} (w : ReqWord) (h : s.SameControl s') :
    FlowNext s s' (exec (decodeHost w) s) (exec (decodeHost w) s') := by
  unfold decodeHost
  split
  · split
    · exact execInit_flow (posField w) (valField w) h
    · exact execSetAddress_flow (posField w) (valField w) h
    · exact execProcess_flow (posField w) (valField w) h
    · exact execGetBit_flow (posField w) (valField w) h
    · exact execGetByte_flow (posField w) (valField w) h
    · exact execSetBit_flow (posField w) (valField w) h
    · exact execSetByte_flow (posField w) (valField w) h
    · exact execTransmit_flow (posField w) (valField w) h
    · exact execIllegal_flow w h
  · exact execIllegal_flow w h

/-- A step from two states with the same control takes the same input on each side. -/
theorem step_flow {s s' : State} (h : s.SameControl s') : FlowNext s s' (step s) (step s') := by
  simp only [step, State.nextInput, h.inputs_eq]
  cases s.inputs with
  | nil => exact (Flow.refl h).next
  | cons i rest =>
    have hdrop := (Flow.refl h).setInputs rest
    cases i with
    | request w =>
      obtain ⟨t, t', ht, ht', hflow⟩ := exec_decodeHost_flow w hdrop.control
      exact ⟨t, t', ht, ht', hdrop.trans hflow⟩
    | reset => exact hdrop.hardwareReset.next

theorem flow_of_step {s s' t t' : State} (h : s.SameControl s') (ht : step s = .next t) (ht' : step s' = .next t') :
    Flow s s' t t' := by
  obtain ⟨u, u', hu, hu', hflow⟩ := step_flow h
  cases hu.symm.trans ht
  cases hu'.symm.trans ht'
  exact hflow

/-! ## The obligations -/

/-- Settles O57: RB and the responses stay the same where they were, since TB reaches the trace alone. -/
theorem noResponseDependsOnTb : Obligations.NoResponseDependsOnTb := by
  unfold Obligations.NoResponseDependsOnTb
  intro s s' t t' h ht ht'
  obtain ⟨hcontrol, hreceive⟩ := State.sameButTbAndTrace_iff.mp h
  have hflow := flow_of_step hcontrol ht ht'
  exact State.sameButTbAndTrace_iff.mpr ⟨hflow.control, hflow.receive hreceive⟩

/-- Settles O58: TB and the trace stay the same where they were, since RB reaches the responses alone. -/
theorem nothingSentDependsOnRb : Obligations.NothingSentDependsOnRb := by
  unfold Obligations.NothingSentDependsOnRb
  intro s s' t t' h ht ht'
  obtain ⟨hcontrol, htransmit⟩ := State.sameButRbAndResponses_iff.mp h
  have hflow := flow_of_step hcontrol ht ht'
  exact State.sameButRbAndResponses_iff.mpr ⟨hflow.control, hflow.transmit htransmit⟩

end Sys2Proof.Machine

/-! Proofs: the address byte the encoder sends and the decoder's test of it (30_encoding.md R83, R84). -/

namespace Sys2Proof.Machine

/-! ## The address byte -/

theorem frame_getElem?_three (s : State) : (frame s)[3]? = some (addrByte s.addr) := rfl

/-- A legal address's byte does not wrap (R25, R83). -/
theorem addrByte_toNat {a : Byte} (ha : a.toNat ≤ Config.MAX_ADDRESS) : (addrByte a).toNat = 0x41 + a.toNat := by
  have hfits : 0x41 + a.toNat < 2 ^ 8 := Nat.lt_of_le_of_lt (Nat.add_le_add_left ha 0x41) (by decide)
  exact (BitVec.toNat_ofNat _ _).trans (Nat.mod_eq_of_lt hfits)

/-! ## The address test -/

theorem addrMatches_iff (a b : Byte) : addrMatches a b = true ↔ (b.toNat : Int) - 0x41 = a.toNat :=
  decide_eq_true_iff

/-- One byte alone passes the test of a legal address: the one that address's node sends. -/
theorem addrMatches_iff_eq_addrByte {a : Byte} (b : Byte) (ha : a.toNat ≤ Config.MAX_ADDRESS) :
    addrMatches a b = true ↔ b = addrByte a := by
  rw [addrMatches_iff, ← BitVec.toNat_inj, addrByte_toNat ha]
  omega

/-- The candidate of a byte below 0x41 is negative, and no address is. -/
theorem addrMatches_eq_false_of_le (a : Byte) {b : Byte} (hb : b.toNat ≤ 0x40) : addrMatches a b = false := by
  rw [Bool.eq_false_iff, ne_eq, addrMatches_iff]
  omega

/-- In Address a decoder step goes on to the command exactly when the address test accepts the byte (R177, R178). -/
theorem decoderStep_st_eq_decodeCommand_iff {s : State} (b : Byte) (h : s.st = .address) :
    (decoderStep b s).st = .decodeCommand ↔ addrMatches s.addr b = true := by
  cases hm : addrMatches s.addr b with
  | true => simp [decoderStep, h, hm, decAddrMatch]
  | false => simp [decoderStep, h, hm, decAddrOther]

/-! ## The obligation -/

/-- Settles O6: both sides read the one sum `0x41 + addr`, which a legal address keeps within a byte. -/
theorem addressByteAndAddressTestAgree : Obligations.AddressByteAndAddressTestAgree := by
  unfold Obligations.AddressByteAndAddressTestAgree
  intro s b ha
  refine ⟨addrByte s.addr, frame_getElem?_three s, addrByte_toNat ha, fun hst => ?_⟩
  have hstep := decoderStep_st_eq_decodeCommand_iff b hst
  refine ⟨hstep.trans (addrMatches_iff _ _), hstep.trans (addrMatches_iff_eq_addrByte b ha), fun hb hcmd => ?_⟩
  exact Bool.eq_false_iff.mp (addrMatches_eq_false_of_le s.addr hb) (hstep.mp hcmd)

end Sys2Proof.Machine

/-! Proofs: the instance's parameters and the depths of the frame buffers (40_frame_buffers.md R123). -/

namespace Sys2Proof.Machine

/-- Each buffer's depth is a parameter of the instance: what a buffer holds has no part in it (R123). -/
theorem State.bufLen_congr {s t : State} (hp : t.params = s.params) (b : Buf) : t.bufLen b = s.bufLen b := by
  cases b with
  | rb => rw [State.bufLen_rb, State.bufLen_rb, hp]
  | tb => rw [State.bufLen_tb, State.bufLen_tb, hp]

/-- Settles O16: no step writes a parameter, and a buffer's depth is one of them. -/
theorem noStepChangesAParameterOrADepth : Obligations.NoStepChangesAParameterOrADepth := by
  unfold Obligations.NoStepChangesAParameterOrADepth
  intro s t h
  have hp : t.params = s.params := step_params h
  exact ⟨hp, State.bufLen_congr hp⟩

end Sys2Proof.Machine

/-! Proofs: bit positions, the bytes of TB and of the frame, and the accessors (30_encoding.md R97,
41_accessors.md). -/

namespace Sys2Proof.Machine

/-! ## Bit positions -/

/-- A bit position lies within a buffer of `n` bytes exactly when its byte does. -/
theorem byteIndex_lt_iff {pos : Pos} {n : Nat} : byteIndex pos < n ↔ pos.toNat < 8 * n := by
  rw [byteIndex, Nat.div_lt_iff_lt_mul (by decide), Nat.mul_comm]

theorem bitMask_getLsbD {j : Nat} (hj : j < 8) (k : Nat) : (bitMask k).getLsbD j = decide (j = k) := by
  rw [bitMask, BitVec.getLsbD_shiftLeft, BitVec.getLsbD_one, Bool.eq_iff_iff]
  simp only [Bool.and_eq_true, Bool.not_eq_true', decide_eq_true_eq, decide_eq_false_iff_not]
  omega

/-- The bit that the mask selects takes the value given, and every other bit is kept (R134). -/
theorem withBit_getLsbD {j : Nat} (hj : j < 8) (b : Byte) (k : Nat) (v : Bool) :
    (withBit b k v).getLsbD j = if j = k then v else b.getLsbD j := by
  have hmask := bitMask_getLsbD hj k
  cases v with
  | true =>
    rw [withBit, if_pos rfl, BitVec.getLsbD_or, hmask]
    by_cases h : j = k <;> simp [h]
  | false =>
    rw [withBit, if_neg Bool.false_ne_true, BitVec.getLsbD_and, BitVec.getLsbD_not, hmask]
    by_cases h : j = k <;> simp [h, hj]

/-- GET_BIT's data is 0x01 or 0x00 by the bit alone (R130). -/
theorem bitOf_eq_ite (b : Byte) (k : Nat) : bitOf b k = if b.getLsbD k then 0x01#8 else 0x00#8 := by
  have hbit : bitOf b k = BitVec.setWidth 8 (BitVec.ofBool (b.getLsbD k)) := by
    ext i hi
    by_cases h0 : i = 0 <;> simp [bitOf, h0]
  rw [hbit]
  cases b.getLsbD k <;> rfl

/-! ## One byte of TB written: what MemRead returns, and what the encoder builds -/

/-- What MemWrite does below the depth (R122). -/
theorem State.memWrite_eq_some {s : State} {b : Buf} {i : Nat} (h : i < s.bufLen b) (v : Byte) :
    s.memWrite b i v = some (s.setBuf b ((s.buf b).put i v)) :=
  if_neg (Nat.not_le.mpr h)

/-- MemRead of one byte depends on the depth and that byte alone (R121). -/
theorem State.memRead_congr_byteAt {s t : State} (b : Buf) {i : Nat} (hp : t.params = s.params)
    (hbyte : (t.buf b).byteAt i = (s.buf b).byteAt i) : t.memRead b i = s.memRead b i := by
  simp only [State.memRead, State.bufLen_congr hp, hbyte]

section

variable {s : State} (hwf : s.tb.wf) {i : Nat} (v : Byte)

include hwf

theorem State.memRead_put_tb_same (hi : i < s.params.txBytes) :
    (s.setBuf .tb (s.tb.put i v)).memRead .tb i = some v := by
  have hbyte : (s.tb.put i v).byteAt i = v := (Memory.byteAt_put _ hwf i i v).trans (if_pos rfl)
  rw [State.memRead_eq_some (by exact hi)]
  exact congrArg some hbyte

theorem State.memRead_put_tb_ne {j : Nat} (hj : j ≠ i) :
    (s.setBuf .tb (s.tb.put i v)).memRead .tb j = s.memRead .tb j :=
  State.memRead_congr_byteAt .tb rfl ((Memory.byteAt_put _ hwf i j v).trans (if_neg hj))

/-- The payload is TB byte by byte (R151), so a byte written to TB replaces that byte of the payload. -/
theorem payload_put_tb : payload (s.setBuf .tb (s.tb.put i v)) = (payload s).set i v := by
  refine List.ext_getElem (by simp) fun j hj _ => ?_
  by_cases h : i = j <;> simp [payload_eq_map, Memory.byteAt_put _ hwf, h, Ne.symm]

/-- A byte written to TB at `i` replaces the frame's byte at offset `5 + i` and no other (R86). -/
theorem frame_put_tb (hi : i < s.params.txBytes) :
    frame (s.setBuf .tb (s.tb.put i v)) = (frame s).set (5 + i) v := by
  rw [frame, payload_put_tb hwf, frame, List.append_assoc, List.append_assoc,
    List.set_append_right _ _ (by simp), List.set_append_left _ _ (by simpa using hi)]
  simp

end

theorem frame_getElem?_payload {s : State} {i : Nat} (hi : i < s.params.txBytes) :
    (frame s)[5 + i]? = s.memRead .tb i := by
  rw [frame, List.append_assoc, List.getElem?_append_right (by simp), List.getElem?_append_left (by simpa using hi),
    State.memRead_eq_some (by exact hi), payload_eq_map]
  simp [hi]

/-! ## What a read answers -/

/-- A read answers OUT_OF_RANGE exactly when its MemRead fails (R121). -/
theorem next_readResponse_eq_fail_iff {s : State} (data : Byte → Byte) (o : Option Byte) :
    (.next (s.respond (readResponse data o)) : Host.Outcome State Fault Refusal) = .next (s.fail .outOfRange) ↔
      o = none := by
  cases o with
  | none => exact iff_of_true rfl rfl
  | some b =>
    refine iff_of_false (fun h => ?_) (Option.some_ne_none b)
    have hresp := congrArg State.responses (Host.Outcome.next.inj h)
    simp [readResponse] at hresp

section

variable {s : State} {pos : Pos} (val : Byte)

theorem exec_getBit_of_lt (hpos : pos.toNat < 8 * s.params.rxBytes) :
    exec (.getBit pos val) s = .next (s.done (bitOf (s.rb.byteAt (byteIndex pos)) (bitIndex pos))) := by
  have hread : s.memRead .rb (byteIndex pos) = some (s.rb.byteAt (byteIndex pos)) :=
    State.memRead_eq_some (byteIndex_lt_iff.mpr hpos)
  exact (execGetBit_eq pos val).trans (by rw [hread]; rfl)

theorem exec_getBit_eq_fail_iff :
    exec (.getBit pos val) s = .next (s.fail .outOfRange) ↔ 8 * s.params.rxBytes ≤ pos.toNat := by
  rw [exec, execGetBit_eq, next_readResponse_eq_fail_iff, State.memRead_eq_none, State.bufLen_rb, ← Nat.not_lt,
    byteIndex_lt_iff, Nat.not_lt]

theorem exec_getByte_of_lt (hpos : pos.toNat < s.params.rxBytes) :
    exec (.getByte pos val) s = .next (s.done (s.rb.byteAt pos.toNat)) := by
  have hread : s.memRead .rb pos.toNat = some (s.rb.byteAt pos.toNat) := State.memRead_eq_some hpos
  exact (execGetByte_eq pos val).trans (by rw [hread]; rfl)

theorem exec_getByte_eq_fail_iff :
    exec (.getByte pos val) s = .next (s.fail .outOfRange) ↔ s.params.rxBytes ≤ pos.toNat := by
  rw [exec, execGetByte_eq, next_readResponse_eq_fail_iff, State.memRead_eq_none, State.bufLen_rb]

/-! ## What a write answers -/

theorem setBitRejects_iff : setBitRejects s pos = true ↔ s.params.txBytes < (pos.toNat + 7) / 8 := decide_eq_true_iff

theorem setByteRejects_iff : setByteRejects s pos = true ↔ s.params.txBytes < pos.toNat := decide_eq_true_iff

/-- The state with one bit of TB set or cleared (R134). -/
def State.withTbBit (s : State) (pos : Pos) (v : Bool) : State :=
  s.setBuf .tb (s.tb.put (byteIndex pos) (withBit (s.tb.byteAt (byteIndex pos)) (bitIndex pos) v))

theorem writeTbBit_eq_some (hpos : pos.toNat < 8 * s.params.txBytes) (v : Bool) :
    writeTbBit s pos v = some (s.withTbBit pos v) :=
  (writeTbBit_eq pos s v).trans (State.memWrite_eq_some (byteIndex_lt_iff.mpr hpos) _)

theorem writeTbBit_eq_none (hpos : s.params.txBytes ≤ pos.toNat / 8) (v : Bool) : writeTbBit s pos v = none :=
  (writeTbBit_eq pos s v).trans (State.memWrite_eq_none.mpr hpos)

theorem exec_setBit_of_illegal (hval : 1 < val.toNat) : exec (.setBit pos val) s = .next (s.fail .illegal) :=
  if_pos hval

theorem exec_setBit_of_reject (hval : val.toNat ≤ 1) (hpos : s.params.txBytes < (pos.toNat + 7) / 8) :
    exec (.setBit pos val) s = .next (s.fail .reject) := by
  rw [exec, execSetBit, if_neg (Nat.not_lt.mpr hval), if_pos (setBitRejects_iff.mpr hpos)]

theorem exec_setBit_of_outOfRange (hval : val.toNat ≤ 1) (hround : (pos.toNat + 7) / 8 ≤ s.params.txBytes)
    (hpos : s.params.txBytes ≤ pos.toNat / 8) : exec (.setBit pos val) s = .next (s.fail .outOfRange) := by
  rw [exec, execSetBit, if_neg (Nat.not_lt.mpr hval), if_neg (setBitRejects_iff.not.mpr (Nat.not_lt.mpr hround)),
    writeTbBit_eq_none hpos]

theorem exec_setBit_of_lt (hval : val.toNat ≤ 1) (hpos : pos.toNat < 8 * s.params.txBytes) :
    exec (.setBit pos val) s = .next ((s.withTbBit pos (decide (val = 1#8))).done 0x00#8) := by
  have hround : ¬ s.params.txBytes < (pos.toNat + 7) / 8 := by omega
  rw [exec, execSetBit, if_neg (Nat.not_lt.mpr hval), if_neg (setBitRejects_iff.not.mpr hround),
    writeTbBit_eq_some hpos]

theorem exec_setByte_of_reject (hpos : s.params.txBytes < pos.toNat) :
    exec (.setByte pos val) s = .next (s.fail .reject) :=
  if_pos (setByteRejects_iff.mpr hpos)

theorem exec_setByte_of_eq (hpos : pos.toNat = s.params.txBytes) :
    exec (.setByte pos val) s = .next (s.fail .outOfRange) := by
  rw [exec, execSetByte, if_neg (setByteRejects_iff.not.mpr hpos.not_gt), State.memWrite_eq_none.mpr (by exact hpos.ge)]

theorem exec_setByte_of_lt (hpos : pos.toNat < s.params.txBytes) :
    exec (.setByte pos val) s = .next ((s.setBuf .tb (s.tb.put pos.toNat val)).done 0x00#8) := by
  rw [exec, execSetByte, if_neg (setByteRejects_iff.not.mpr hpos.not_gt), State.memWrite_eq_some (by exact hpos)]
  rfl

/-- A write of TB fails with nothing changed, or completes with another TB (R137). -/
theorem exec_set_cases (s : State) {i : Instr} (hset : i = .setBit pos val ∨ i = .setByte pos val) :
    (∃ e, exec i s = .next (s.fail e)) ∨ ∃ m, exec i s = .next ((s.setBuf .tb m).done 0x00#8) := by
  rcases hset with rfl | rfl
  · rcases Nat.lt_or_ge 1 val.toNat with hval | hval
    · exact .inl ⟨_, exec_setBit_of_illegal val hval⟩
    · rcases Nat.lt_or_ge pos.toNat (8 * s.params.txBytes) with hpos | hpos
      · exact .inr ⟨_, exec_setBit_of_lt val hval hpos⟩
      · rcases Nat.lt_or_ge s.params.txBytes ((pos.toNat + 7) / 8) with hround | hround
        · exact .inl ⟨_, exec_setBit_of_reject val hval hround⟩
        · exact .inl ⟨_, exec_setBit_of_outOfRange val hval hround (by omega)⟩
  · rcases Nat.lt_trichotomy pos.toNat s.params.txBytes with hpos | hpos | hpos
    · exact .inr ⟨_, exec_setByte_of_lt val hpos⟩
    · exact .inl ⟨_, exec_setByte_of_eq val hpos⟩
    · exact .inl ⟨_, exec_setByte_of_reject val hpos⟩

end

/-! ## The obligations -/

/-- Settles O23: GET_BIT's one MemRead succeeds exactly below `8*RX_BYTES`, and its data is the bit read. -/
theorem getBitReadsOneBitOfRb : Obligations.GetBitReadsOneBitOfRb := by
  unfold Obligations.GetBitReadsOneBitOfRb
  intro s pos val
  refine ⟨by simp [decodeHost], fun hpos => ?_, fun hpos => (exec_getBit_eq_fail_iff val).mpr hpos⟩
  refine ⟨_, State.memRead_eq_some (byteIndex_lt_iff.mpr hpos), ?_⟩
  rw [exec_getBit_of_lt val hpos, bitOf_eq_ite]
  rfl

/-- Settles O24: GET_BYTE's one MemRead succeeds exactly below RX_BYTES. -/
theorem getByteReadsOneByteOfRb : Obligations.GetByteReadsOneByteOfRb := by
  unfold Obligations.GetByteReadsOneByteOfRb
  intro s pos val
  exact ⟨by simp [decodeHost], fun hpos => ⟨_, State.memRead_eq_some hpos, exec_getByte_of_lt val hpos⟩,
    fun hpos => (exec_getByte_eq_fail_iff val).mpr hpos⟩

/-- Settles O25: both operations read the same byte of RB, so they fail together. -/
theorem bitReadsAgreeWithByteReads : Obligations.BitReadsAgreeWithByteReads := by
  unfold Obligations.BitReadsAgreeWithByteReads
  intro s p q v w hq
  constructor
  · intro hp
    have hbyte : q.toNat < s.params.rxBytes := by omega
    refine ⟨_, exec_getByte_of_lt w hbyte, ?_⟩
    rw [exec_getBit_of_lt v hp, byteIndex, ← hq]
    rfl
  · refine (exec_getBit_eq_fail_iff v).trans (Iff.trans ?_ (exec_getByte_eq_fail_iff w).symm)
    omega

/-- Settles O26: the three failures in the order of the checks, and below `8*TX_BYTES` one byte of TB rewritten with
the one bit. -/
theorem setBitWritesOneBitOfTb : Obligations.SetBitWritesOneBitOfTb := by
  unfold Obligations.SetBitWritesOneBitOfTb
  intro s pos val hwf
  refine ⟨by simp [decodeHost], fun hval hpos => ?_, exec_setBit_of_illegal val, exec_setBit_of_reject val,
    exec_setBit_of_outOfRange val⟩
  have hbyte : byteIndex pos < s.params.txBytes := byteIndex_lt_iff.mpr hpos
  exact ⟨_, _, _, exec_setBit_of_lt val hval hpos, rfl, State.memRead_eq_some hbyte,
    State.memRead_put_tb_same hwf _ hbyte, fun k hk => withBit_getLsbD hk _ _ _,
    fun j hj => State.memRead_put_tb_ne hwf _ hj⟩

/-- Settles O27: `8*TX_BYTES` is the one position that rounds up to TX_BYTES bytes and starts past them. -/
theorem setBitOutcomeByRangeOfPosition : Obligations.SetBitOutcomeByRangeOfPosition := by
  unfold Obligations.SetBitOutcomeByRangeOfPosition
  intro s pos val hval
  refine ⟨fun hpos => ⟨_, exec_setBit_of_lt val hval hpos, rfl⟩, fun hpos => ?_, fun hpos => ?_⟩
  · exact exec_setBit_of_outOfRange val hval (by omega) (by omega)
  · exact exec_setBit_of_reject val hval (by omega)

/-- Settles O28: SET_BYTE's own check lets `pos = TX_BYTES` pass, and MemWrite then refuses it. -/
theorem setByteWritesOneByteOfTb : Obligations.SetByteWritesOneByteOfTb := by
  unfold Obligations.SetByteWritesOneByteOfTb
  intro s pos val hwf
  refine ⟨by simp [decodeHost], fun hpos => ?_, exec_setByte_of_eq val, exec_setByte_of_reject val⟩
  exact ⟨_, exec_setByte_of_lt val hpos, rfl, State.memRead_put_tb_same hwf val hpos,
    fun j hj => State.memRead_put_tb_ne hwf val hj⟩

/-- Settles O29: a read only responds, and a write of TB fails or replaces TB before it responds. -/
theorem failingAccessorsAndReadsChangeNothing : Obligations.FailingAccessorsAndReadsChangeNothing := by
  unfold Obligations.FailingAccessorsAndReadsChangeNothing
  rintro s pos val i (rfl | rfl | hset)
  · exact ⟨_, _, execGetBit_eq pos val, rfl, fun _ => rfl⟩
  · exact ⟨_, _, execGetByte_eq pos val, rfl, fun _ => rfl⟩
  · rcases exec_set_cases val s hset with ⟨e, he⟩ | ⟨m, hm⟩
    · exact ⟨_, ⟨e, 0x00#8, []⟩, he, rfl, fun _ => rfl⟩
    · refine ⟨_, ⟨.ok, 0x00#8, []⟩, hm, rfl, ?_⟩
      rcases hset with rfl | rfl <;> simp

/-- Settles O30: the frame holds TB verbatim from offset 5 on, so one byte of TB is one byte of the frame. -/
theorem setBitIsSeenInTheNextFrame : Obligations.SetBitIsSeenInTheNextFrame := by
  unfold Obligations.SetBitIsSeenInTheNextFrame
  intro s pos val hwf hval hpos
  have hbyte : byteIndex pos < s.params.txBytes := byteIndex_lt_iff.mpr hpos
  have hframe : frame ((s.withTbBit pos (decide (val = 1#8))).done 0x00#8) = (frame s).set (5 + byteIndex pos)
      (withBit (s.tb.byteAt (byteIndex pos)) (bitIndex pos) (decide (val = 1#8))) := frame_put_tb hwf _ hbyte
  refine ⟨_, _, _, exec_setBit_of_lt val hval hpos, (frame_getElem?_payload hbyte).trans (State.memRead_eq_some hbyte),
    ?_, fun k hk => withBit_getLsbD hk _ _ _, fun n hn => ?_⟩
  · rw [hframe]
    exact List.getElem?_set_self (by rw [frame_length]; omega)
  · rw [hframe]
    exact List.getElem?_set_ne hn.symm

end Sys2Proof.Machine

/-! Proofs: the outbound frame byte by byte, and TRANSMIT (42_encoder.md R151, R152, R158). -/

namespace Sys2Proof.Machine

/-! ## The end of the frame -/

/-- ETX follows the five head bytes and the payload (R151). -/
theorem frame_getElem?_etx (s : State) : (frame s)[5 + s.params.txBytes]? = some Config.ETX := by
  have hlast : 5 + s.params.txBytes =
      ([Config.PRE, Config.PRE, Config.STX, addrByte s.addr, Config.CMD_RESP] ++ payload s).length := by
    rw [List.length_append, payload_length]
    rfl
  rw [frame, hlast]
  exact List.getElem?_concat_length

/-! ## An encoder run, and TRANSMIT, under a drawn outcome -/

/-- An encoder run makes one draw and adds one transmission to the trace: that of the bytes the outcome lets through
(R152, R157). -/
theorem encoderRun_eq_transmission {s : State} {o : SinkOutcome} (ho : s.sinkOutcome = o) :
    encoderRun s = { s with
      te := false
      trace := s.trace ++ transmission (sentBytes (frame s) o)
      sinks := s.sinks.tail
      sinkDraws := s.sinkDraws + 1 } :=
  ho ▸ encoderRun_eq s

/-- TRANSMIT is one encoder run and a response with its status (R158). -/
theorem exec_transmit_eq {s : State} {o : SinkOutcome} (ho : s.sinkOutcome = o) (pos : Pos) (val : Byte) :
    exec (.transmit pos val) s = .next ((encoderRun s).respond ⟨transmitStatus o, 0x00#8, []⟩) :=
  ho ▸ rfl

/-! ## The obligations -/

/-- Settles O31: five head bytes, whose address byte does not wrap, then TB verbatim, then ETX. -/
theorem frameIsTheListedBytes : Obligations.FrameIsTheListedBytes := by
  unfold Obligations.FrameIsTheListedBytes
  intro s ha
  have haddr : ∃ a, (frame s)[3]? = some a ∧ a.toNat = 0x41 + s.addr.toNat :=
    ⟨addrByte s.addr, frame_getElem?_three s, addrByte_toNat ha⟩
  exact ⟨frame_length s, rfl, rfl, rfl, haddr, rfl, fun _ hi => frame_getElem?_payload hi, frame_getElem?_etx s⟩

/-- Settles O32: the two outcomes of the sink differ only in the bytes the run lets through and in the status. -/
theorem transmitSendsTheFrameOrItsFirstBytes : Obligations.TransmitSendsTheFrameOrItsFirstBytes := by
  unfold Obligations.TransmitSendsTheFrameOrItsFirstBytes
  intro s pos val
  refine ⟨by simp [decodeHost], _, exec_transmit_eq rfl pos val, fun hok => ?_, fun k hfail => ?_⟩
  · rw [hok, encoderRun_eq_transmission hok]
    rfl
  · rw [hfail, encoderRun_eq_transmission hfail]
    rfl

end Sys2Proof.Machine

/-! Proofs: the keys of the decoder's rows, and the one row that a state and a byte select (30_encoding.md R98, R99). -/

namespace Sys2Proof

/-! ## The row that a state and a byte select -/

theorem encode_classify (c : RowContext) (st : DecState) (b : Byte) :
    encode (classify c st b) = .key (keyOf st.code b) := by
  fun_cases classify c st b <;> subst_vars <;> rfl

/-- The byte of the selected row is in the row's class; where the address test accepts it, it is 0x41 or above. -/
theorem classify_wellFormed (c : RowContext) (st : DecState) (b : Byte) : (classify c st b).wellFormed = true := by
  fun_cases classify c st b
  case case7 hmatch =>
    simp only [addrMatches, decide_eq_true_eq] at hmatch
    simp only [Instr.wellFormed, decide_eq_true_eq]
    omega
  all_goals simp_all [Instr.wellFormed]

theorem classify_selectedIn (c : RowContext) (st : DecState) (b : Byte) : (classify c st b).selectedIn c = true := by
  fun_cases classify c st b <;> simp_all [Instr.selectedIn]

theorem decode_keyOf (c : RowContext) (st : DecState) (b : Byte) :
    decode c (.key (keyOf st.code b)) = .ok (classify c st b) := by
  simp [decode, decodeKey]

/-- The key of a well-formed row whose condition holds decodes to that row: one arm for the rows whose key is fixed,
one for those whose key carries the byte. -/
theorem decode_of_encode_eq_key {c : RowContext} {i : Instr} {k : Key} (hwf : i.wellFormed = true)
    (hsel : i.selectedIn c = true) (hk : encode i = .key k) : decode c (.key k) = .ok i := by
  cases i with
  | init | setAddress | process | getBit | getByte | setBit | setByte | transmit | illegal => cases hk
  | decP1Pre | decP2Pre | decP3Stx | decCmdSet | decCmdPoll | decDataEsc | decDataEtx | decIgnEsc | decIgnEtx =>
    cases hk
    rfl
  | _ =>
    cases hk
    simp_all [decode, decodeKey, DecState.ofCode, classify, Instr.wellFormed, Instr.selectedIn]

/-! ## The opcode table's rows at a key -/

theorem keyOf_eq_iff {code : Nibble} {b : Byte} {k : Key} :
    keyOf code b = k ↔ code = keyCode k ∧ b = keyByte k := by
  constructor
  · rintro rfl
    exact ⟨(keyCode_keyOf code b).symm, (keyByte_keyOf code b).symm⟩
  · rintro ⟨rfl, rfl⟩
    exact keyOf_fields k

/-- A row that fixes the whole key. -/
theorem KeyRow.hits_whole (m : String) (pat : Key) (cond : Byte → Bool) (code : Nibble) (b : Byte) :
    (KeyRow.mk m pat 0xFFF#12 cond).hits (keyOf code b) =
      (decide (code = keyCode pat ∧ b = keyByte pat) && cond b) := by
  simp [KeyRow.hits, key_and_full, keyOf_eq_iff]

/-- A row that fixes the code alone. -/
theorem KeyRow.hits_code (m : String) (pat : Key) (cond : Byte → Bool) (code : Nibble) (b : Byte) :
    (KeyRow.mk m pat 0xF00#12 cond).hits (keyOf code b) =
      (decide (code = keyCode pat ∧ 0#8 = keyByte pat) && cond b) := by
  simp [KeyRow.hits, key_and_code, keyOf_eq_iff]

/-- The address row, whose pattern holds the one byte that meets its condition (R177). -/
theorem KeyRow.hits_address (m : String) (a : Byte) (code : Nibble) (b : Byte) :
    (KeyRow.mk m (0x300#12 ||| BitVec.ofNat 12 (0x41 + a.toNat)) 0xFFF#12 (addrMatches a)).hits (keyOf code b) =
      (decide (code = 3#4) && addrMatches a b) := by
  cases hm : addrMatches a b with
  | false => simp [KeyRow.hits, hm]
  | true => simp [KeyRow.hits, key_and_full, Laws.RowMatch.addr_key _ _ hm, hm, keyOf_eq_iff]

/-- The first row of the opcode table that matches a state's key is the selected row's: in each branch of `classify`
the rows before it have another code, another byte, or a condition that fails. -/
theorem tableRow_keyOf (c : RowContext) (st : DecState) (b : Byte) :
    tableRow c (.key (keyOf st.code b)) = some (classify c st b).mnemonic := by
  simp only [tableRow, keyTable, List.cons_append, List.nil_append, List.find?_cons, KeyRow.hits_address]
  simp only [KeyRow.hits_whole, KeyRow.hits_code, keyCode, keyByte]
  fun_cases classify c st b <;> simp_all [DecState.code, Instr.mnemonic]

end Sys2Proof

namespace Sys2Proof.Machine

/-! ## The obligation -/

/-- A decoder step keeps `cur` within RB: the one step that raises it needs room (R194). -/
theorem decoderStep_cur_le {s : State} (b : Byte) (h : s.cur ≤ s.params.rxBytes) :
    (decoderStep b s).cur ≤ s.params.rxBytes := by
  rcases decoderStep_cases b s with ⟨d, heq⟩ | ⟨-, hroom, heq⟩ | ⟨-, -, heq⟩ <;> rw [heq]
  · simp only
    split <;> omega
  · exact hroom
  · exact (encoderRun_cur s).trans_le h

/-- Settles O3: the selected row is the one its key decodes to, and so is any other row with that key. -/
theorem exactlyOneRowAppliesToEveryByte : Obligations.ExactlyOneRowAppliesToEveryByte := by
  unfold Obligations.ExactlyOneRowAppliesToEveryByte
  refine ⟨fun c st b => ⟨classify c st b, ⟨classify_wellFormed c st b, classify_selectedIn c st b,
    encode_classify c st b⟩, fun j hwf hsel hkey => ?_⟩, fun _ b => decoderStep_cur_le b⟩
  have hj : decode c (.key (keyOf st.code b)) = .ok j := decode_of_encode_eq_key hwf hsel hkey
  exact Except.ok.inj (hj.symm.trans (decode_keyOf c st b))

end Sys2Proof.Machine

/-! Proofs: what each row of the decoder does where it is selected (43_decoder.md R171 to R193). -/

namespace Sys2Proof.Machine

theorem exec_classify (s : State) (b : Byte) : exec (classify s.rowContext s.st b) s = .next (decoderStep b s) := by
  fun_cases decoderStep b s <;> simp_all [-not_lt, -Nat.not_lt, classify] <;> rfl

theorem rowRuns_classify (s : State) (b : Byte) :
    RowRuns (classify s.rowContext s.st b) b s (decoderStep b s) :=
  ⟨encode_classify _ _ b, decode_keyOf _ _ b, tableRow_keyOf _ _ b, exec_classify s b, rfl⟩

theorem RowRuns.decoderStep_eq {i : Instr} {b : Byte} {s t : State} (h : RowRuns i b s t) : decoderStep b s = t := by
  obtain ⟨-, -, -, -, hstep⟩ := h
  exact hstep

/-- A row runs where the state and the byte select it, and to the state its meaning answers. -/
theorem rowRuns_of_classify {i : Instr} {b : Byte} {s t : State} (hi : classify s.rowContext s.st b = i)
    (ht : exec i s = .next t) : RowRuns i b s t := by
  have hstep : decoderStep b s = t := by
    have hexec := exec_classify s b
    rw [hi, ht] at hexec
    exact (Host.Outcome.next.inj hexec).symm
  rw [← hi, ← hstep]
  exact rowRuns_classify s b

/-! ## The rows -/

section

variable {s : State} {b : Byte}

theorem rowRuns_decP1Pre (h : s.st = .preamble1) :
    RowRuns .decP1Pre 0xFF#8 s { s with cur := 0, st := .preamble2, txs := .none } :=
  rowRuns_of_classify (by simp [classify, h]) rfl

theorem rowRuns_decP1Other (h : s.st = .preamble1) (hb : b ≠ 0xFF#8) :
    RowRuns (.decP1Other b) b s { s with cur := 0, st := .preamble1, txs := .none } :=
  rowRuns_of_classify (by simp [classify, h, hb]) rfl

theorem rowRuns_decP2Pre (h : s.st = .preamble2) :
    RowRuns .decP2Pre 0xFF#8 s { s with st := .preamble3, txs := .none } :=
  rowRuns_of_classify (by simp [classify, h]) rfl

theorem rowRuns_decP2Other (h : s.st = .preamble2) (hb : b ≠ 0xFF#8) :
    RowRuns (.decP2Other b) b s { s with st := .preamble1, txs := .none } :=
  rowRuns_of_classify (by simp [classify, h, hb]) rfl

theorem rowRuns_decP3Stx (h : s.st = .preamble3) :
    RowRuns .decP3Stx 0x02#8 s { s with st := .address, txs := .none } :=
  rowRuns_of_classify (by simp [classify, h]) rfl

theorem rowRuns_decP3Other (h : s.st = .preamble3) (hb : b ≠ 0x02#8) :
    RowRuns (.decP3Other b) b s { s with st := .preamble1, txs := .none } :=
  rowRuns_of_classify (by simp [classify, h, hb]) rfl

theorem rowRuns_decAddrMatch (h : s.st = .address) (hb : addrMatches s.addr b = true) :
    RowRuns (.decAddrMatch b) b s { s with st := .decodeCommand, txs := .none } :=
  rowRuns_of_classify (by simp [classify, h, hb])
    (by simp [exec, execDecAddrMatch, decAddrMatch, hb, State.setSt, State.setTxs])

theorem rowRuns_decAddrOther (h : s.st = .address) (hb : addrMatches s.addr b = false) :
    RowRuns (.decAddrOther b) b s { s with st := .ignoreCommand, txs := .none } :=
  rowRuns_of_classify (by simp [classify, h, hb]) rfl

theorem rowRuns_decCmdSet (h : s.st = .decodeCommand) :
    RowRuns .decCmdSet 0x54#8 s { s with st := .decodeData, txs := .none } :=
  rowRuns_of_classify (by simp [classify, h]) rfl

/-- The poll row is one encoder run, whatever the sink does with it (R180). -/
theorem rowRuns_decCmdPoll (h : s.st = .decodeCommand) {o : SinkOutcome} (ho : s.sinkOutcome = o) :
    RowRuns .decCmdPoll 0x50#8 s { s with
      st := .preamble1, te := false, txs := txStatusOf o, trace := s.trace ++ transmission (sentBytes (frame s) o)
      sinks := s.sinks.tail, sinkDraws := s.sinkDraws + 1 } :=
  rowRuns_of_classify (by simp [classify, h, Config.CMD_SET])
    (by simp only [exec, execDecCmdPoll, decCmdPoll, ho, encoderRun_eq_transmission ho, State.setSt, State.setTxs])

theorem rowRuns_decCmdOther (h : s.st = .decodeCommand) (hset : b ≠ 0x54#8) (hpoll : b ≠ 0x50#8) :
    RowRuns (.decCmdOther b) b s { s with st := .postambleOther, txs := .none } :=
  rowRuns_of_classify (by simp [classify, h, hset, hpoll]) rfl

theorem rowRuns_decIgncmdAny (h : s.st = .ignoreCommand) :
    RowRuns (.decIgncmdAny b) b s { s with st := .ignoreData, txs := .none } :=
  rowRuns_of_classify (by simp [classify, h]) rfl

theorem rowRuns_decDataEsc (h : s.st = .decodeData) :
    RowRuns .decDataEsc 0x10#8 s { s with st := .decodeEscData, txs := .none } :=
  rowRuns_of_classify (by simp [classify, h]) rfl

theorem rowRuns_decDataEtx (h : s.st = .decodeData) :
    RowRuns .decDataEtx 0x03#8 s { s with st := .preamble1, txs := .none } :=
  rowRuns_of_classify (by simp [classify, h, Config.ESC]) rfl

theorem rowRuns_decDataStore (h : s.st = .decodeData) (hesc : b ≠ 0x10#8) (hetx : b ≠ 0x03#8)
    (hroom : s.cur < s.params.rxBytes) :
    RowRuns (.decDataStore b) b s { s with rb := s.rb.put s.cur b, cur := s.cur + 1, txs := .none } :=
  rowRuns_of_classify (by simp [classify, h, hesc, hetx, hroom])
    (by simp [exec, execDecDataStore, decDataStore, storePayload_room hroom, State.setTxs])

theorem rowRuns_decDataFull (h : s.st = .decodeData) (hesc : b ≠ 0x10#8) (hetx : b ≠ 0x03#8)
    (hfull : s.params.rxBytes ≤ s.cur) : RowRuns (.decDataFull b) b s { s with txs := .none } :=
  rowRuns_of_classify (by simp [classify, h, hesc, hetx, hfull]) rfl

theorem rowRuns_decEscStore (h : s.st = .decodeEscData) (hroom : s.cur < s.params.rxBytes) :
    RowRuns (.decEscStore b) b s
      { s with rb := s.rb.put s.cur b, cur := s.cur + 1, st := .decodeData, txs := .none } :=
  rowRuns_of_classify (by simp [classify, h, hroom])
    (by simp [exec, execDecEscStore, decEscStore, storePayload_room hroom, State.setSt, State.setTxs])

theorem rowRuns_decEscFull (h : s.st = .decodeEscData) (hfull : s.params.rxBytes ≤ s.cur) :
    RowRuns (.decEscFull b) b s { s with st := .decodeData, txs := .none } :=
  rowRuns_of_classify (by simp [classify, h, hfull]) rfl

theorem rowRuns_decIgnEsc (h : s.st = .ignoreData) :
    RowRuns .decIgnEsc 0x10#8 s { s with st := .ignoreEscData, txs := .none } :=
  rowRuns_of_classify (by simp [classify, h]) rfl

theorem rowRuns_decIgnEtx (h : s.st = .ignoreData) :
    RowRuns .decIgnEtx 0x03#8 s { s with st := .preamble1, txs := .none } :=
  rowRuns_of_classify (by simp [classify, h, Config.ESC]) rfl

theorem rowRuns_decIgnOther (h : s.st = .ignoreData) (hesc : b ≠ 0x10#8) (hetx : b ≠ 0x03#8) :
    RowRuns (.decIgnOther b) b s { s with txs := .none } :=
  rowRuns_of_classify (by simp [classify, h, hesc, hetx]) rfl

theorem rowRuns_decIgnescAny (h : s.st = .ignoreEscData) :
    RowRuns (.decIgnescAny b) b s { s with st := .ignoreData, txs := .none } :=
  rowRuns_of_classify (by simp [classify, h]) rfl

theorem rowRuns_decPostAny (h : s.st = .postambleOther) :
    RowRuns (.decPostAny b) b s { s with st := .preamble1, txs := .none } :=
  rowRuns_of_classify (by simp [classify, h]) rfl

end

/-! ## One byte of RB written at `cur` -/

theorem State.memRead_put_rb {s : State} (hwf : s.rb.wf) (hroom : s.cur < s.params.rxBytes) (b : Byte) (j : Nat) :
    (s.setBuf .rb (s.rb.put s.cur b)).memRead .rb j = if j = s.cur then some b else s.memRead .rb j := by
  have hbyte := Memory.byteAt_put s.rb hwf s.cur j b
  split
  · next hj =>
    subst hj
    rw [State.memRead_eq_some (by exact hroom)]
    exact congrArg some (hbyte.trans (if_pos rfl))
  · next hj => exact State.memRead_congr_byteAt .rb rfl (hbyte.trans (if_neg hj))

/-! ## The obligations -/

/-- Settles O43: with room the byte is put at `cur`, without it the row changes nothing. -/
theorem dataRowsStoreOrDropTheByte : Obligations.DataRowsStoreOrDropTheByte := by
  unfold Obligations.DataRowsStoreOrDropTheByte
  intro s b hwf hst hesc hetx
  refine ⟨fun hroom => ?_, rowRuns_decDataFull hst hesc hetx⟩
  refine ⟨_, rowRuns_decDataStore hst hesc hetx hroom, rfl, ?_, fun j hj => ?_⟩
  · exact (State.memRead_put_rb hwf hroom b s.cur).trans (if_pos rfl)
  · exact (State.memRead_put_rb hwf hroom b j).trans (if_neg hj)

/-- Settles O44: as O43, for a byte of any value, and back to DecodeData. -/
theorem escapedDataRowsStoreOrDropTheByte : Obligations.EscapedDataRowsStoreOrDropTheByte := by
  unfold Obligations.EscapedDataRowsStoreOrDropTheByte
  intro s b hwf hst
  refine ⟨fun hroom => ?_, rowRuns_decEscFull hst⟩
  refine ⟨_, rowRuns_decEscStore hst hroom, rfl, ?_, fun j hj => ?_⟩
  · exact (State.memRead_put_rb hwf hroom b s.cur).trans (if_pos rfl)
  · exact (State.memRead_put_rb hwf hroom b j).trans (if_neg hj)

/-- Settles O36: both rows clear `cur`, from any value. -/
theorem preambleOneRowsClearTheCursor : Obligations.PreambleOneRowsClearTheCursor :=
  fun _ _ hst => ⟨rowRuns_decP1Pre hst, rowRuns_decP1Other hst⟩

/-- Settles O37: 0xFF is one of the other bytes in Preamble3. -/
theorem preambleTwoAndThreeRowsMoveTheState : Obligations.PreambleTwoAndThreeRowsMoveTheState :=
  fun _ _ => ⟨fun hst => ⟨rowRuns_decP2Pre hst, rowRuns_decP2Other hst⟩,
    fun hst => ⟨rowRuns_decP3Stx hst, rowRuns_decP3Other hst⟩⟩

/-- Settles O38: the row's condition is the test in the integers. -/
theorem addressRowsFilterByNodeAddress : Obligations.AddressRowsFilterByNodeAddress := by
  unfold Obligations.AddressRowsFilterByNodeAddress
  intro s b hst
  have htest := addrMatches_iff s.addr b
  exact ⟨fun hb => rowRuns_decAddrMatch hst (htest.mpr hb),
    fun hb => rowRuns_decAddrOther hst (Bool.eq_false_iff.mpr (mt htest.mp hb))⟩

/-- Settles O41: each of the five rows writes the decoder's state at most. -/
theorem foreignFrameRowsOnlyMoveTheState : Obligations.ForeignFrameRowsOnlyMoveTheState :=
  fun _ _ => ⟨rowRuns_decIgncmdAny,
    fun hst => ⟨rowRuns_decIgnEsc hst, rowRuns_decIgnEtx hst, rowRuns_decIgnOther hst⟩, rowRuns_decIgnescAny⟩

/-- Settles O42: neither row writes RB or `cur`. -/
theorem escapeAndEtxRowsStoreNothing : Obligations.EscapeAndEtxRowsStoreNothing :=
  fun _ hst => ⟨rowRuns_decDataEsc hst, rowRuns_decDataEtx hst⟩

/-- Settles O45: the row has no condition on the byte. -/
theorem postambleRowDropsOneByte : Obligations.PostambleRowDropsOneByte := fun _ _ => rowRuns_decPostAny

/-- Settles O51: the step that stores has room in a data state, where escape and ETX leave `cur` alone; the step that
transmits has the poll byte in DecodeCommand. -/
theorem onlyStoresWriteRbAndOnlyPollsTransmit : Obligations.OnlyStoresWriteRbAndOnlyPollsTransmit := by
  unfold Obligations.OnlyStoresWriteRbAndOnlyPollsTransmit
  intro s b
  rcases decoderStep_cases b s with ⟨d, heq⟩ | ⟨hst, hroom, heq⟩ | ⟨hst, rfl, heq⟩
  · exact ⟨fun hrb => absurd (congrArg State.rb heq) hrb, fun htr => absurd (congrArg State.trace heq) htr⟩
  · refine ⟨fun _ => ?_, fun htr => absurd (congrArg State.trace heq) htr⟩
    have hcur : (decoderStep b s).cur ≠ s.cur := by simp [heq]
    rcases hst with hst | hst
    · have hesc : b ≠ 0x10#8 := by
        rintro rfl
        exact hcur (by rw [(rowRuns_decDataEsc hst).decoderStep_eq])
      have hetx : b ≠ 0x03#8 := by
        rintro rfl
        exact hcur (by rw [(rowRuns_decDataEtx hst).decoderStep_eq])
      exact .inl (by simp [classify, hst, hesc, hetx, hroom])
    · exact .inr (by simp [classify, hst, hroom])
  · refine ⟨fun hrb => absurd (by simp [heq]) hrb, fun _ => ?_⟩
    simp [classify, hst, Config.CMD_SET, Config.CMD_POLL]

end Sys2Proof.Machine

/-! Proofs: what a PROCESS of a byte sequence does, from the rows its bytes select (43_decoder.md 7,
44_host_operations.md R214). -/

namespace Sys2Proof.Machine

/-! ## A PROCESS that takes given bytes -/

section

variable {s : State} {bs rest : List Byte} {ts : List Nat}

theorem State.Receives.taken_eq (h : s.Receives bs rest ts) : s.rx.take s.available = bs := by
  obtain ⟨hrx, htakes⟩ := h
  cases hs : s.rx with
  | nil =>
    obtain ⟨rfl, -⟩ := List.append_eq_nil_iff.mp (hrx.symm.trans hs)
    exact List.take_nil
  | cons b bs' =>
    have havail : s.available = bs.length := by simp only [State.available, hs, htakes]
    rw [havail, ← hs, hrx, List.take_left]

theorem State.Receives.consume_eq (h : s.Receives bs rest ts) :
    s.consume = { s with rx := rest, takes := ts, takeDraws := s.takeDraws + 1 } := by
  have hsplit := List.take_append_drop s.available s.rx
  rw [h.taken_eq] at hsplit
  obtain ⟨hrx, htakes⟩ := h
  have hdrop : s.rx.drop s.available = rest := List.append_cancel_left (hsplit.trans hrx)
  rw [State.consume, hdrop, htakes, List.tail_cons]

/-- A PROCESS feeds the bytes it takes to the decoder, and answers with them and with the status of the polls among
them (R214). -/
theorem exec_process_of_feed {t : State} {failed : Bool} (pos : Pos) (val : Byte) (h : s.Receives bs rest ts)
    (hfeed : feed bs s.consume = (t, failed)) :
    exec (.process pos val) s = .next (t.respond ⟨processStatus failed, 0x00#8, bs⟩) := by
  simp only [exec, execProcess, h.taken_eq, hfeed]

end

/-! ## Rows in a row -/

section

variable {s t : State}

/-- A step that returns NONE hands the rest of the bytes on. -/
theorem feed_cons_of_decoderStep {b : Byte} (h : decoderStep b s = t) (ht : t.txs = .none) (bs : List Byte) :
    feed (b :: bs) s = feed bs t := by
  simp [feed, h, ht, TxStatus.failed]

theorem RowRuns.feed_cons {i : Instr} {b : Byte} (h : RowRuns i b s t) (ht : t.txs = .none) (bs : List Byte) :
    feed (b :: bs) s = feed bs t :=
  feed_cons_of_decoderStep h.decoderStep_eq ht bs

theorem feed_pair_of_decoderStep {u : State} {b c : Byte} (h : decoderStep b s = t) (h' : decoderStep c t = u) :
    feed [b, c] s = (u, t.txs.failed || u.txs.failed) := by
  simp [feed, h, h']

theorem feed_append_of_feed {bs : List Byte} (h : feed bs s = (t, false)) (cs : List Byte) :
    feed (bs ++ cs) s = feed cs t := by
  refine Prod.ext ?_ ?_
  · rw [feed_append_fst, h]
  · rw [feed_append_snd, h, Bool.false_or]

end

/-! ## The preamble (R195) -/

section

variable {s : State}

/-- Three preamble bytes lead from Preamble1 back to it. -/
theorem feed_three_preambles (h : s.st = .preamble1) (bs : List Byte) :
    feed (0xFF#8 :: 0xFF#8 :: 0xFF#8 :: bs) s = feed bs { s with cur := 0, st := .preamble1, txs := .none } := by
  rw [(rowRuns_decP1Pre h).feed_cons rfl, (rowRuns_decP2Pre rfl).feed_cons rfl,
    (rowRuns_decP3Other rfl (by decide)).feed_cons rfl]

/-- A run of `n` preamble bytes and STX: three of the bytes at a time make no difference. -/
theorem feed_preamble_run : ∀ (n : Nat) {s : State}, s.st = .preamble1 →
    feed (List.replicate n 0xFF#8 ++ [0x02#8]) s =
      ({ s with cur := 0, st := if n % 3 = 2 then .address else .preamble1, txs := .none }, false)
  | 0, _, h => (rowRuns_decP1Other h (by decide)).feed_cons rfl []
  | 1, _, h => ((rowRuns_decP1Pre h).feed_cons rfl _).trans ((rowRuns_decP2Other rfl (by decide)).feed_cons rfl [])
  | 2, _, h => ((rowRuns_decP1Pre h).feed_cons rfl _).trans
      (((rowRuns_decP2Pre rfl).feed_cons rfl _).trans ((rowRuns_decP3Stx rfl).feed_cons rfl []))
  | n + 3, _, h => by
    rw [Nat.add_mod_right]
    exact (feed_three_preambles h _).trans (feed_preamble_run n rfl)

/-- The preamble of a frame, and then the bytes from the address byte on. -/
theorem feed_preamble (h : s.st = .preamble1) (bs : List Byte) :
    feed (Config.PRE :: Config.PRE :: Config.STX :: bs) s = feed bs { s with cur := 0, st := .address, txs := .none } :=
  feed_append_of_feed (feed_preamble_run 2 h) bs

end

/-! ## Bytes without a preamble (R195) -/

/-- The decoder waits for a frame: it is in one of the three preamble states. -/
abbrev State.InPreamble (s : State) : Prop := s.st = .preamble1 ∨ s.st = .preamble2 ∨ s.st = .preamble3

/-- The preamble bytes that a preamble state has seen last. -/
def preambleSeen : DecState → List Byte
  | .preamble2 => [0xFF#8]
  | .preamble3 => [0xFF#8, 0xFF#8]
  | _ => []

/-- What a step between preamble states keeps: it is in a preamble state, with the preamble bytes it has seen the last
ones of `seen`, and RB and the trace are as in `s`. -/
structure StaysInPreamble (s : State) (seen : List Byte) (t : State) : Prop where
  st : t.InPreamble
  seen : preambleSeen t.st <:+ seen
  rb : t.rb = s.rb
  trace : t.trace = s.trace

theorem decoderStep_staysInPreamble {s : State} {b : Byte} (hst : s.InPreamble)
    (hb : s.st = .preamble3 → b ≠ 0x02#8) : StaysInPreamble s (preambleSeen s.st ++ [b]) (decoderStep b s) := by
  rcases hst with hst | hst | hst
  · by_cases hpre : b = 0xFF#8
    · subst hpre
      rw [(rowRuns_decP1Pre hst).decoderStep_eq, hst]
      exact ⟨.inr (.inl rfl), List.suffix_refl _, rfl, rfl⟩
    · rw [(rowRuns_decP1Other hst hpre).decoderStep_eq]
      exact ⟨.inl rfl, List.nil_suffix, rfl, rfl⟩
  · by_cases hpre : b = 0xFF#8
    · subst hpre
      rw [(rowRuns_decP2Pre hst).decoderStep_eq, hst]
      exact ⟨.inr (.inr rfl), List.suffix_refl _, rfl, rfl⟩
    · rw [(rowRuns_decP2Other hst hpre).decoderStep_eq]
      exact ⟨.inl rfl, List.nil_suffix, rfl, rfl⟩
  · rw [(rowRuns_decP3Other hst (hb hst)).decoderStep_eq]
    exact ⟨.inl rfl, List.nil_suffix, rfl, rfl⟩

/-- Bytes that complete no preamble, with those already seen, leave the decoder in the preamble states. -/
theorem feed_staysInPreamble (bs : List Byte) {s : State} (hst : s.InPreamble)
    (hno : ¬ [0xFF#8, 0xFF#8, 0x02#8] <:+: preambleSeen s.st ++ bs) :
    (feed bs s).1.InPreamble ∧ (feed bs s).1.rb = s.rb ∧ (feed bs s).1.trace = s.trace := by
  induction bs generalizing s with
  | nil => exact ⟨hst, rfl, rfl⟩
  | cons b bs ih =>
    have hb : s.st = .preamble3 → b ≠ 0x02#8 := by
      rintro h3 rfl
      exact hno (h3 ▸ List.infix_append' [] _ bs)
    have hstep := decoderStep_staysInPreamble hst hb
    have hno' : ¬ [0xFF#8, 0xFF#8, 0x02#8] <:+: preambleSeen (decoderStep b s).st ++ bs := by
      obtain ⟨old, hold⟩ := hstep.seen
      intro hin
      refine hno (hin.trans ⟨old, [], ?_⟩)
      rw [List.append_nil, ← List.append_assoc, hold, List.append_assoc]
      rfl
    obtain ⟨hst', hrb, htrace⟩ := ih hstep.st hno'
    exact ⟨hst', hrb.trans hstep.rb, htrace.trans hstep.trace⟩

/-! ## Foreign frames (R196) -/

theorem inboundFrame_eq (a cmd : Byte) (xs : List SentByte) :
    inboundFrame a cmd xs =
      Config.PRE :: Config.PRE :: Config.STX :: a :: cmd :: (wirePayload xs ++ [Config.ETX]) := rfl

section

variable {s : State}

/-- A payload byte of a foreign frame passes, bare or after an escape. -/
theorem feed_foreign_sentByte {x : SentByte} (hst : s.st = .ignoreData) (htxs : s.txs = .none) (hx : x.Legal)
    (bs : List Byte) : feed (x.wire ++ bs) s = feed bs s := by
  obtain ⟨escaped, b⟩ := x
  cases escaped with
  | true =>
    have hback : { s with st := .ignoreData, txs := .none } = s := by rw [← hst, ← htxs]
    exact ((rowRuns_decIgnEsc hst).feed_cons rfl _).trans
      (((rowRuns_decIgnescAny rfl).feed_cons rfl bs).trans (congrArg _ hback))
  | false =>
    have hback : { s with txs := .none } = s := by rw [← htxs]
    obtain hf | ⟨hetx, hesc⟩ := hx
    · cases hf
    · exact ((rowRuns_decIgnOther hst hesc hetx).feed_cons rfl bs).trans (congrArg _ hback)

theorem feed_foreign_payload {xs : List SentByte} (hst : s.st = .ignoreData) (htxs : s.txs = .none)
    (hxs : ∀ x ∈ xs, x.Legal) (bs : List Byte) : feed (wirePayload xs ++ bs) s = feed bs s := by
  induction xs with
  | nil => rfl
  | cons x xs ih =>
    obtain ⟨hx, hxs⟩ := List.forall_mem_cons.mp hxs
    rw [wirePayload, List.flatMap_cons, List.append_assoc, feed_foreign_sentByte hst htxs hx]
    exact ih hxs

theorem feed_foreign_frame {a : Byte} (cmd : Byte) {xs : List SentByte} (hst : s.st = .preamble1)
    (ha : addrMatches s.addr a = false) (hxs : ∀ x ∈ xs, x.Legal) :
    feed (inboundFrame a cmd xs) s = ({ s with cur := 0, txs := .none }, false) := by
  rw [inboundFrame_eq, feed_preamble hst, (rowRuns_decAddrOther rfl (by exact ha)).feed_cons rfl,
    (rowRuns_decIgncmdAny rfl).feed_cons rfl, feed_foreign_payload rfl rfl hxs,
    (rowRuns_decIgnEtx rfl).feed_cons rfl, feed_nil, ← hst]

end

/-! ## The payload of a set-data frame (R185 to R188) -/

/-- The payload write of each byte, in order. -/
def storePayloads (ds : List Byte) (s : State) : State := ds.foldl (fun t d => storePayload d t) s

@[simp] theorem storePayloads_nil (s : State) : storePayloads [] s = s := rfl

@[simp] theorem storePayloads_cons (d : Byte) (ds : List Byte) (s : State) :
    storePayloads (d :: ds) s = storePayloads ds (storePayload d s) := rfl

section

variable {s : State}

/-- The payload write neither reads nor changes the decoder's state and the last status. -/
theorem storePayload_control (b : Byte) (s : State) (d : DecState) (x : TxStatus) :
    storePayload b { s with st := d, txs := x } = { storePayload b s with st := d, txs := x } := by
  rcases Nat.lt_or_ge s.cur s.params.rxBytes with hroom | hfull
  · rw [storePayload_room hroom]
    exact storePayload_room hroom
  · rw [storePayload_full hfull]
    exact storePayload_full hfull

theorem storePayload_st (b : Byte) : (storePayload b s).st = s.st :=
  (congrArg State.st (storePayload_control b s s.st s.txs)).trans rfl

theorem storePayload_txs (b : Byte) : (storePayload b s).txs = s.txs :=
  (congrArg State.txs (storePayload_control b s s.st s.txs)).trans rfl

/-- In DecodeData the STORE row and the FULL row are one payload write, which does nothing where RB is full. -/
theorem decoderStep_of_decodeData {b : Byte} (hst : s.st = .decodeData) (hesc : b ≠ 0x10#8) (hetx : b ≠ 0x03#8) :
    decoderStep b s = { storePayload b s with txs := .none } := by
  rcases Nat.lt_or_ge s.cur s.params.rxBytes with hroom | hfull
  · rw [storePayload_room hroom, (rowRuns_decDataStore hst hesc hetx hroom).decoderStep_eq]
  · rw [storePayload_full hfull, (rowRuns_decDataFull hst hesc hetx hfull).decoderStep_eq]

theorem decoderStep_of_decodeEscData (b : Byte) (hst : s.st = .decodeEscData) :
    decoderStep b s = { storePayload b s with st := .decodeData, txs := .none } := by
  rcases Nat.lt_or_ge s.cur s.params.rxBytes with hroom | hfull
  · rw [storePayload_room hroom, (rowRuns_decEscStore hst hroom).decoderStep_eq]
  · rw [storePayload_full hfull, (rowRuns_decEscFull hst hfull).decoderStep_eq]

/-- The payload writes change RB and `cur` alone, and `cur` stops at the depth. -/
theorem storePayloads_eq (ds : List Byte) (hcur : s.cur ≤ s.params.rxBytes) :
    storePayloads ds s =
      { s with rb := (storePayloads ds s).rb, cur := min (s.cur + ds.length) s.params.rxBytes } := by
  induction ds generalizing s with
  | nil => rw [storePayloads_nil, List.length_nil, Nat.add_zero, Nat.min_eq_left hcur]
  | cons d ds ih =>
    rw [storePayloads_cons, List.length_cons]
    rcases Nat.lt_or_ge s.cur s.params.rxBytes with hroom | hfull
    · have hlen : s.cur + 1 + ds.length = s.cur + (ds.length + 1) := by omega
      rw [storePayload_room hroom, ← hlen]
      exact ih hroom
    · have hlen : min (s.cur + ds.length) s.params.rxBytes = min (s.cur + (ds.length + 1)) s.params.rxBytes := by omega
      rw [storePayload_full hfull, ← hlen]
      exact ih hcur

/-- RB after the payload writes: the bytes from `cur` on, as far as the depth goes, and every other byte as it was. -/
theorem storePayloads_memRead (ds : List Byte) (hwf : s.rb.wf) {i : Nat} (hi : i < s.params.rxBytes) :
    (storePayloads ds s).memRead .rb i =
      if s.cur ≤ i ∧ i < s.cur + ds.length then ds[i - s.cur]? else s.memRead .rb i := by
  induction ds generalizing s with
  | nil => simp [show ¬ (s.cur ≤ i ∧ i < s.cur) by omega]
  | cons d ds ih =>
    rw [storePayloads_cons]
    rcases Nat.lt_or_ge s.cur s.params.rxBytes with hroom | hfull
    · have hput : ({ s with rb := s.rb.put s.cur d, cur := s.cur + 1 } : State).memRead .rb i =
          if i = s.cur then some d else s.memRead .rb i := State.memRead_put_rb hwf hroom d i
      rw [storePayload_room hroom, ih (s := { s with rb := s.rb.put s.cur d, cur := s.cur + 1 })
        (Memory.put_wf _ hwf _ d) hi, hput]
      dsimp only
      rcases Nat.lt_trichotomy i s.cur with hlt | rfl | hgt
      · rw [if_neg (by omega), if_neg (by omega), if_neg (by omega)]
      · rw [if_neg (by omega), if_pos rfl, if_pos (by simp), Nat.sub_self, List.getElem?_cons_zero]
      · obtain ⟨k, rfl⟩ := Nat.exists_eq_add_of_lt hgt
        have hnext : s.cur + k + 1 - (s.cur + 1) = k := by omega
        have hfirst : s.cur + k + 1 - s.cur = k + 1 := by omega
        rw [hnext, hfirst, List.getElem?_cons_succ, if_neg (Nat.ne_of_gt hgt)]
        exact if_congr (by rw [List.length_cons]; omega) rfl rfl
    · rw [storePayload_full hfull, ih hwf hi, if_neg (by omega), if_neg (by omega)]

/-- The payload writes in one: new contents of RB, of which both sides are known, and the cursor. -/
theorem exists_storePayloads_eq (ds : List Byte) (hwf : s.rb.wf) (hcur : s.cur ≤ s.params.rxBytes) :
    ∃ m : Memory, storePayloads ds s = { s with rb := m, cur := min (s.cur + ds.length) s.params.rxBytes } ∧
      ∀ i, i < s.params.rxBytes → (s.setBuf .rb m).memRead .rb i =
        if s.cur ≤ i ∧ i < s.cur + ds.length then ds[i - s.cur]? else s.memRead .rb i := by
  have heq := storePayloads_eq ds hcur
  refine ⟨_, heq, fun i hi => ?_⟩
  rw [← storePayloads_memRead ds hwf hi]
  exact State.memRead_congr .rb (congrArg State.params heq).symm rfl i

/-- A payload byte of a frame to this node is written, bare or after an escape. -/
theorem feed_sentByte {x : SentByte} (hst : s.st = .decodeData) (htxs : s.txs = .none) (hx : x.Legal)
    (bs : List Byte) : feed (x.wire ++ bs) s = feed bs (storePayload x.byte s) := by
  obtain ⟨escaped, b⟩ := x
  cases escaped with
  | true =>
    have hback : { storePayload b { s with st := .decodeEscData, txs := .none } with
        st := .decodeData, txs := .none } = storePayload b s := by
      rw [storePayload_control, ← hst, ← htxs, ← storePayload_st b, ← storePayload_txs b]
    exact ((rowRuns_decDataEsc hst).feed_cons rfl _).trans
      ((feed_cons_of_decoderStep (decoderStep_of_decodeEscData b rfl) rfl bs).trans (congrArg _ hback))
  | false =>
    have hback : { storePayload b s with txs := .none } = storePayload b s := by
      rw [← htxs, ← storePayload_txs b]
    obtain hf | ⟨hetx, hesc⟩ := hx
    · cases hf
    · exact (feed_cons_of_decoderStep (decoderStep_of_decodeData hst hesc hetx) rfl bs).trans (congrArg _ hback)

theorem storePayloads_st (ds : List Byte) (hcur : s.cur ≤ s.params.rxBytes) : (storePayloads ds s).st = s.st :=
  (congrArg State.st (storePayloads_eq ds hcur)).trans rfl

theorem feed_payload {xs : List SentByte} (hst : s.st = .decodeData) (htxs : s.txs = .none)
    (hxs : ∀ x ∈ xs, x.Legal) (bs : List Byte) :
    feed (wirePayload xs ++ bs) s = feed bs (storePayloads (xs.map SentByte.byte) s) := by
  induction xs generalizing s with
  | nil => rfl
  | cons x xs ih =>
    obtain ⟨hx, hxs⟩ := List.forall_mem_cons.mp hxs
    rw [wirePayload, List.flatMap_cons, List.append_assoc, feed_sentByte hst htxs hx, List.map_cons, storePayloads_cons]
    exact ih ((storePayload_st _).trans hst) ((storePayload_txs _).trans htxs) hxs

/-- The head of a frame to this node is synchronisation, a matching address byte, and the command. -/
theorem feed_own_head (cmd : Byte) (hst : s.st = .preamble1) (haddr : s.addr.toNat ≤ Config.MAX_ADDRESS)
    (bs : List Byte) : feed (frameHead (addrByte s.addr) cmd ++ bs) s =
      feed (cmd :: bs) { s with cur := 0, st := .decodeCommand, txs := .none } := by
  have hmatch : addrMatches s.addr (addrByte s.addr) = true := (addrMatches_iff_eq_addrByte _ haddr).mpr rfl
  exact (feed_preamble hst _).trans ((rowRuns_decAddrMatch rfl (by exact hmatch)).feed_cons rfl _)

theorem feed_set_frame {xs : List SentByte} (hst : s.st = .preamble1) (haddr : s.addr.toNat ≤ Config.MAX_ADDRESS)
    (hxs : ∀ x ∈ xs, x.Legal) : feed (inboundFrame (addrByte s.addr) Config.CMD_SET xs) s =
      ({ storePayloads (xs.map SentByte.byte) { s with cur := 0, st := .decodeData, txs := .none } with
        st := .preamble1, txs := .none }, false) := by
  rw [inboundFrame, List.append_assoc, feed_own_head _ hst haddr, (rowRuns_decCmdSet rfl).feed_cons rfl,
    feed_payload rfl rfl hxs]
  exact (rowRuns_decDataEtx (storePayloads_st _ (Nat.zero_le _))).feed_cons rfl []

/-- A poll frame is one encoder run; its ETX arrives in Preamble1 and clears `cur` once more. -/
theorem feed_poll_frame {o : SinkOutcome} (hst : s.st = .preamble1) (haddr : s.addr.toNat ≤ Config.MAX_ADDRESS)
    (ho : s.sinkOutcome = o) : feed (pollFrame s.addr) s =
      ({ s with
        cur := 0, te := false, txs := .none, trace := s.trace ++ transmission (sentBytes (frame s) o)
        sinks := s.sinks.tail, sinkDraws := s.sinkDraws + 1 }, (txStatusOf o).failed) := by
  rw [pollFrame, inboundFrame, List.append_assoc, feed_own_head _ hst haddr]
  have hpoll := rowRuns_decCmdPoll (s := { s with cur := 0, st := .decodeCommand, txs := .none }) rfl ho
  refine (feed_pair_of_decoderStep hpoll.decoderStep_eq
    (rowRuns_decP1Other rfl (by decide)).decoderStep_eq).trans (Prod.ext ?_ (Bool.or_false _))
  rw [← hst]
  rfl

end

/-! ## The last status does not matter to a decoder step (R170) -/

theorem decoderStep_setTxs (b : Byte) (s : State) (x : TxStatus) : decoderStep b (s.setTxs x) = decoderStep b s := by
  have hstore : storePayload b (s.setTxs x) = (storePayload b s).setTxs x :=
    (storePayload_control b s s.st x).trans (by rw [← storePayload_st b]; rfl)
  fun_cases decoderStep b s <;>
    simp_all [-not_lt, -Nat.not_lt, decoderStep, decAddrMatch, decDataStore, decEscStore] <;> rfl

/-- Bytes fed after another last status lead to the same state, but for that status where no byte is fed. -/
theorem feed_setTxs (bs : List Byte) (s : State) (x : TxStatus) :
    ∃ y, feed bs s = ((feed bs (s.setTxs x)).1.setTxs y, (feed bs (s.setTxs x)).2) := by
  cases bs with
  | nil => exact ⟨s.txs, rfl⟩
  | cons b bs =>
    simp only [feed, decoderStep_setTxs]
    exact ⟨_, rfl⟩

/-! ## Within a frame: an escaped ETX, an unknown command, a frame without its ETX (R197, R198, R202) -/

section

variable {s : State} {xs : List SentByte} {tail : List Byte}

theorem feed_escaped_etx (hst : s.st = .decodeData) (hroom : s.cur < s.params.rxBytes) :
    feed [Config.ESC, Config.ETX] s =
      ({ s with rb := s.rb.put s.cur Config.ETX, cur := s.cur + 1, st := .decodeData, txs := .none }, false) :=
  ((rowRuns_decDataEsc hst).feed_cons rfl _).trans ((rowRuns_decEscStore rfl (by exact hroom)).feed_cons rfl [])

theorem feed_unknown_command {cmd : Byte} (x : Byte) (hst : s.st = .decodeCommand) (hset : cmd ≠ 0x54#8)
    (hpoll : cmd ≠ 0x50#8) : feed [cmd, x] s = ({ s with st := .preamble1, txs := .none }, false) :=
  ((rowRuns_decCmdOther hst hset hpoll).feed_cons rfl _).trans ((rowRuns_decPostAny rfl).feed_cons rfl [])

/-- A payload and perhaps a lone escape, from DecodeData. -/
theorem feed_payload_append_tail (hst : s.st = .decodeData) (htxs : s.txs = .none)
    (hcur : s.cur ≤ s.params.rxBytes) (hxs : ∀ x ∈ xs, x.Legal) (htail : tail = [] ∨ tail = [0x10#8]) :
    feed (wirePayload xs ++ tail) s = ({ storePayloads (xs.map SentByte.byte) s with
      st := if tail = [] then .decodeData else .decodeEscData, txs := .none }, false) := by
  have hst' := (storePayloads_st (xs.map SentByte.byte) hcur).trans hst
  rw [feed_payload hst htxs hxs]
  rcases htail with rfl | rfl
  · have htxs' : (storePayloads (xs.map SentByte.byte) s).txs = .none :=
      (congrArg State.txs (storePayloads_eq _ hcur)).trans htxs
    rw [feed_nil, if_pos rfl, ← hst', ← htxs']
  · exact (rowRuns_decDataEsc hst').feed_cons rfl []

end

/-! ## The obligations -/

/-- Settles O46: STX after the run reaches Address when two of its bytes are left over from the threes. -/
theorem preambleRunSynchronisesExactlyModuloThree : Obligations.PreambleRunSynchronisesExactlyModuloThree := by
  unfold Obligations.PreambleRunSynchronisesExactlyModuloThree
  intro s n pos val rest ts hst hrx
  refine ⟨_, exec_process_of_feed pos val hrx (feed_preamble_run n hst), ?_, fun hn => if_neg hn, rfl, rfl⟩
  by_cases hn : n % 3 = 2 <;> simp [hn]

/-- Settles O47: the bytes complete no preamble, so no step leaves the preamble states. -/
theorem withoutAPreambleNothingHappens : Obligations.WithoutAPreambleNothingHappens := by
  unfold Obligations.WithoutAPreambleNothingHappens
  intro s bs pos val rest ts hst hrx hno
  have hseen : preambleSeen s.consume.st = [] := congrArg preambleSeen hst
  have hstay := feed_staysInPreamble bs (s := s.consume) (.inl hst) (by rwa [hseen])
  exact ⟨_, exec_process_of_feed pos val hrx rfl, hstay⟩

/-- Settles O48: the address byte does not match, so the frame is skipped to its unescaped ETX. -/
theorem foreignFrameIsSkipped : Obligations.ForeignFrameIsSkipped := by
  unfold Obligations.ForeignFrameIsSkipped
  intro s a cmd xs pos val rest ts hst ha hxs hrx
  have hother : addrMatches s.addr a = false := Bool.eq_false_iff.mpr (mt (addrMatches_iff s.addr a).mp ha)
  refine ⟨_, exec_process_of_feed pos val hrx (feed_foreign_frame cmd hst hother hxs), ?_⟩
  rw [hrx.consume_eq]
  rfl

/-- Settles O49: the payload is written from byte 0 on, and the frame's ETX keeps `cur`. -/
theorem setDataFrameFillsRb : Obligations.SetDataFrameFillsRb := by
  unfold Obligations.SetDataFrameFillsRb
  intro s xs pos val rest ts hinv hst hxs hrx
  obtain ⟨-, -, haddr, -, -, ⟨hwf, -⟩, -⟩ := hinv
  have hfeed := feed_set_frame (s := s.consume) hst haddr hxs
  obtain ⟨m, hm, hread⟩ := exists_storePayloads_eq (xs.map SentByte.byte)
    (s := { s.consume with cur := 0, st := .decodeData, txs := .none }) hwf (Nat.zero_le _)
  rw [hm] at hfeed
  refine ⟨_, exec_process_of_feed pos val hrx hfeed, ?_, fun i hi => (hread i hi).trans ?_⟩
  · rw [hrx.consume_eq, List.length_map, Nat.zero_add, ← hst]
    rfl
  · exact if_congr (by simp) (List.getElem?_map ..) rfl

/-- Settles O50: the one encoder run is the poll row's, and PROCESS answers with its status. -/
theorem pollFrameIsAnsweredOnce : Obligations.PollFrameIsAnsweredOnce := by
  unfold Obligations.PollFrameIsAnsweredOnce
  intro s pos val rest ts hinv hst hrx
  obtain ⟨-, -, haddr, hte, -⟩ := hinv
  obtain ⟨o, ho⟩ : ∃ o, s.sinkOutcome = o := ⟨_, rfl⟩
  refine ⟨_, exec_process_of_feed pos val hrx (feed_poll_frame hst haddr ho), ?_, fun hok => ?_, fun k hfail => ?_⟩
  · rw [hrx.consume_eq, ← hte]
    rfl
  · obtain rfl : o = .ok := ho.symm.trans hok
    exact ⟨rfl, rfl⟩
  · obtain rfl : o = .fail k := ho.symm.trans hfail
    exact ⟨rfl, rfl⟩

/-- Settles O52: the escape row stores nothing, and the row after it stores any byte. -/
theorem escapedEtxIsData : Obligations.EscapedEtxIsData := by
  unfold Obligations.EscapedEtxIsData
  intro s pos val rest ts hwf hst hroom hrx
  refine ⟨_, exec_process_of_feed pos val hrx (feed_escaped_etx hst hroom), rfl, rfl, ?_, fun j hj => ?_⟩
  · exact (State.memRead_put_rb hwf hroom _ s.cur).trans (if_pos rfl)
  · exact (State.memRead_put_rb hwf hroom _ j).trans (if_neg hj)

/-- Settles O53: taken back to DecodeData before its first escape, the sequence is a whole payload and perhaps a lone
escape; the status from before it shows only where no byte is fed. -/
theorem lostEtxKeepsTheDecoderInTheFrame : Obligations.LostEtxKeepsTheDecoderInTheFrame := by
  unfold Obligations.LostEtxKeepsTheDecoderInTheFrame
  intro s xs tail bs pos val rest ts hwf hcur hxs htail hbs hrx
  have hstart : feed bs (s.consume.setTxs .none) =
      feed (wirePayload xs ++ tail) { s.consume with st := .decodeData, txs := .none } := by
    rcases hbs with ⟨hst, rfl⟩ | ⟨hst, hesc⟩
    · rw [← hst]
      rfl
    · rw [← hesc, (rowRuns_decDataEsc rfl).feed_cons rfl, ← hst]
      rfl
  have hpayload := feed_payload_append_tail
    (s := { s.consume with st := .decodeData, txs := .none }) rfl rfl hcur hxs htail
  obtain ⟨m, hm, hread⟩ := exists_storePayloads_eq (xs.map SentByte.byte)
    (s := { s.consume with st := .decodeData, txs := .none }) hwf hcur
  obtain ⟨y, hfeed⟩ := feed_setTxs bs s.consume .none
  rw [hstart, hpayload, hm] at hfeed
  refine ⟨_, exec_process_of_feed pos val hrx hfeed, ?_, fun i hi => (hread i hi).trans ?_, fun ht => ?_⟩
  · rw [hrx.consume_eq, List.length_map]
    rfl
  · exact if_congr (by rw [List.length_map]; rfl) (List.getElem?_map ..) rfl
  · exact rowRuns_decDataEtx (if_pos ht)

/-- Settles O54: the unknown command leads to PostambleOther, which drops one byte of any value. -/
theorem unknownCommandDropsOneMoreByte : Obligations.UnknownCommandDropsOneMoreByte := by
  unfold Obligations.UnknownCommandDropsOneMoreByte
  intro s cmd x pos val rest ts hst hset hpoll hrx
  rw [exec_process_of_feed pos val hrx (feed_unknown_command x hst hset hpoll), hrx.consume_eq]
  rfl

end Sys2Proof.Machine

/-! Proofs: words that spell no operation, INIT and SET_ADDRESS (44_host_operations.md R210, R212, R218). -/

namespace Sys2Proof

/-- A word with a reserved bit set, or with no operation's code, spells no operation (R96). -/
theorem decodeHost_of_isIllegalWord {w : ReqWord} (h : isIllegalWord w) : decodeHost w = .illegal w := by
  rcases h with hrsv | hop | hop
  · exact if_neg hrsv
  · simp only [decodeHost, opField, hop]
    exact ite_self _
  · have hop' : 9 ≤ (opField w).toNat := hop
    unfold decodeHost
    split
    · split
      case h_9 => rfl
      all_goals omega
    · rfl

end Sys2Proof

namespace Sys2Proof.Machine

section

variable {s : State} (pos : Pos) {val : Byte}

theorem exec_init_of_gt (hval : 190 < val.toNat) : exec (.init pos val) s = .next (s.fail .reject) := if_pos hval

theorem exec_init_of_le (hval : val.toNat ≤ 190) :
    exec (.init pos val) s = .next ((s.initialise val).done 0x00#8) :=
  if_neg (Nat.not_lt.mpr hval)

theorem exec_setAddress_of_gt (hval : 190 < val.toNat) : exec (.setAddress pos val) s = .next (s.fail .reject) :=
  if_pos hval

theorem exec_setAddress_of_le (hval : val.toNat ≤ 190) :
    exec (.setAddress pos val) s = .next ((s.setAddr val).done 0x00#8) :=
  if_neg (Nat.not_lt.mpr hval)

theorem State.memRead_initialise {i : Nat} (a : Byte) (b : Buf) (hi : i < s.bufLen b) :
    (s.initialise a).memRead b i = some 0x00#8 := by
  cases b with
  | rb => exact State.memRead_eq_some (by exact hi)
  | tb => exact State.memRead_eq_some (by exact hi)

end

/-! ## The obligations -/

/-- Settles O20: INIT refuses an address above 190, and below it responds after the initialisation. -/
theorem initReinitialisesTheCore : Obligations.InitReinitialisesTheCore := by
  unfold Obligations.InitReinitialisesTheCore
  intro s pos val
  exact ⟨by simp [decodeHost], exec_init_of_gt pos, fun hval => ⟨_, exec_init_of_le pos hval, rfl,
    fun _ => State.memRead_initialise val .rb, fun _ => State.memRead_initialise val .tb⟩⟩

/-- Settles O21: the same check as INIT's, and one field written. -/
theorem setAddressWritesOnlyTheAddress : Obligations.SetAddressWritesOnlyTheAddress := by
  unfold Obligations.SetAddressWritesOnlyTheAddress
  exact fun s pos val => ⟨by simp [decodeHost], exec_setAddress_of_gt pos, exec_setAddress_of_le pos⟩

/-- Settles O33: each of the three grounds leads `decodeHost` to ILLEGAL, which only responds. -/
theorem illegalWordsOnlyRespond : Obligations.IllegalWordsOnlyRespond := by
  unfold Obligations.IllegalWordsOnlyRespond
  intro s w rest hin hw
  have hdecode : decodeHost w = .illegal w := decodeHost_of_isIllegalWord hw
  refine ⟨hdecode, rfl, ?_⟩
  simp only [step, State.nextInput, hin, hdecode]
  rfl

end Sys2Proof.Machine

/-! Proofs: what a decoder step does not depend on: outside Address and but for a poll's frame the node address, and
everywhere the stream, the draws of PROCESS and the responses (44_host_operations.md R213, R216). -/

namespace Sys2Proof.Machine

/-! ## Updates that a decoder step passes through -/

/-- An update that commutes with the writes of every row but the poll, and keeps what the rows' conditions read, the
node address apart (R170). -/
structure OutsideRows (f : State → State) : Prop where
  params_eq (t : State) : (f t).params = t.params
  st_eq (t : State) : (f t).st = t.st
  cur_eq (t : State) : (f t).cur = t.cur
  setSt (t : State) (d : DecState) : (f t).setSt d = f (t.setSt d)
  setCur (t : State) (n : Nat) : (f t).setCur n = f (t.setCur n)
  setTxs (t : State) (x : TxStatus) : (f t).setTxs x = f (t.setTxs x)
  putRb (t : State) (i : Nat) (v : Byte) : { f t with rb := (f t).rb.put i v } = f { t with rb := t.rb.put i v }

namespace OutsideRows

variable {f : State → State} {s : State}

theorem storePayload (hf : OutsideRows f) (b : Byte) : storePayload b (f s) = f (storePayload b s) := by
  have hcur := hf.cur_eq s
  have hp := hf.params_eq s
  rcases Nat.lt_or_ge s.cur s.params.rxBytes with hroom | hfull
  · rw [storePayload_room hroom, storePayload_room (by rwa [hcur, hp]), hcur]
    exact (congrArg (State.setCur · (s.cur + 1)) (hf.putRb s s.cur b)).trans (hf.setCur _ _)
  · rw [storePayload_full hfull, storePayload_full (by rwa [hcur, hp])]

/-- A decoder step commutes with such an update, if in Address the update keeps the node address too, and if a poll
that is due commutes with it. -/
theorem decoderStep (hf : OutsideRows f) {b : Byte} (haddr : s.st = .address → (f s).addr = s.addr)
    (hpoll : s.st = .decodeCommand → b = Config.CMD_POLL → decCmdPoll (f s) = f (decCmdPoll s)) :
    decoderStep b (f s) = f (decoderStep b s) := by
  have move : ∀ d, ((f s).setSt d).setTxs .none = f ((s.setSt d).setTxs .none) := fun d => by
    rw [hf.setSt, hf.setTxs]
  cases hst : s.st with simp only [Machine.decoderStep, hf.st_eq, hf.cur_eq, hf.params_eq, hst]
  | preamble1 => split <;> simp only [decP1Pre, decP1Other, hf.setCur, hf.setSt, hf.setTxs]
  | preamble2 | preamble3 => split <;> exact move _
  | address =>
    rw [haddr hst]
    split
    · next hm => simp only [decAddrMatch, haddr hst, hm, if_true, move]
    · exact move _
  | decodeCommand =>
    split
    · exact move _
    · split
      · next hb => exact hpoll hst hb
      · exact move _
  | ignoreCommand | ignoreEscData | postambleOther => exact move _
  | decodeData =>
    split
    · exact move _
    · split
      · exact move _
      · split <;> simp only [decDataStore, decDataFull, hf.storePayload, hf.setTxs]
  | decodeEscData => split <;> simp only [decEscStore, decEscFull, hf.storePayload, hf.setSt, hf.setTxs]
  | ignoreData =>
    split
    · exact move _
    · split
      · exact move _
      · exact hf.setTxs s .none

end OutsideRows

/-! ## The node address (R213) -/

theorem outsideRows_setAddr (a : Byte) : OutsideRows (State.setAddr · a) := by
  constructor <;> intros <;> rfl

theorem classify_eq_decCmdPoll_iff {c : RowContext} {st : DecState} {b : Byte} :
    classify c st b = .decCmdPoll ↔ st = .decodeCommand ∧ b = 0x50#8 := by
  fun_cases classify c st b <;> simp_all [Config.CMD_SET]

theorem decoderStep_setAddr {s : State} {b : Byte} (hst : s.st ≠ .address)
    (hpoll : classify s.rowContext s.st b ≠ .decCmdPoll) (a : Byte) :
    decoderStep b (s.setAddr a) = (decoderStep b s).setAddr a :=
  (outsideRows_setAddr a).decoderStep (fun haddr => absurd haddr hst)
    fun hcmd hb => absurd (classify_eq_decCmdPoll_iff.mpr ⟨hcmd, hb⟩) hpoll

/-! ## What stands around the core (R216) -/

/-- The state with the receive stream, the draws of PROCESS and the responses of another. -/
def State.within (s e : State) : State :=
  { s with rx := e.rx, takes := e.takes, takeDraws := e.takeDraws, responses := e.responses }

theorem outsideRows_within (e : State) : OutsideRows (State.within · e) := by
  constructor <;> intros <;> rfl

theorem decoderStep_within (b : Byte) (s e : State) : decoderStep b (s.within e) = (decoderStep b s).within e :=
  (outsideRows_within e).decoderStep (fun _ => rfl) fun _ _ => rfl

theorem feed_within (bs : List Byte) (s e : State) : (feed bs (s.within e)).1 = (feed bs s).1.within e := by
  induction bs generalizing s with
  | nil => rfl
  | cons b bs ih => rw [feed_cons_fst, feed_cons_fst, decoderStep_within, ih]

/-- Two sequences fed one after another lead where they lead as one, whatever stands around the core at the start of
each. -/
theorem feed_append_within (bs cs : List Byte) {s t u : State} (ht : t = s.within t)
    (hu : u = (feed bs t).1.within u) : (feed cs u).1 = (feed (bs ++ cs) s).1.within u := by
  have hmid : (feed bs t).1 = (feed bs s).1.within t :=
    (congrArg (fun x => (feed bs x).1) ht).trans (feed_within bs s t)
  have hstart : u = (feed bs s).1.within u := by
    rw [hmid] at hu
    exact hu
  rw [feed_append_fst, ← feed_within, ← hstart]

/-- After a PROCESS of `bs` the next one takes `cs`, and starts from the state that `bs` led to but for what stands
around the core. -/
theorem exec_process_then {s : State} {bs cs rest : List Byte} {ts : List Nat} (pos : Pos) (val : Byte)
    (h : s.Receives bs (cs ++ rest) (cs.length :: ts)) :
    ∃ t, exec (.process pos val) s = .next t ∧ t.Receives cs rest ts ∧
      t.consume = (feed bs s.consume).1.within t.consume := by
  refine ⟨_, exec_process_of_feed pos val h rfl, ?_, rfl⟩
  rw [h.consume_eq]
  exact ⟨feed_rx bs _, feed_takes bs _⟩

/-! ## The obligations -/

/-- Settles O56: a poll's two transmissions differ in the trace alone, and every other row passes the address by. -/
theorem outsideAddressOnlyThePollFrameDependsOnTheAddress :
    Obligations.OutsideAddressOnlyThePollFrameDependsOnTheAddress := by
  unfold Obligations.OutsideAddressOnlyThePollFrameDependsOnTheAddress
  intro s b a hst
  by_cases hpoll : classify s.rowContext s.st b = .decCmdPoll
  · refine ⟨?_, fun h => absurd hpoll h⟩
    obtain ⟨hcmd, rfl⟩ := classify_eq_decCmdPoll_iff.mp hpoll
    rw [(rowRuns_decCmdPoll hcmd rfl).decoderStep_eq,
      (rowRuns_decCmdPoll (s := { s with addr := a }) hcmd rfl).decoderStep_eq]
    rfl
  · have hstep : decoderStep b { s with addr := a } = (decoderStep b s).setAddr a := decoderStep_setAddr hst hpoll a
    rw [hstep]
    exact ⟨rfl, fun _ => rfl⟩

/-- Settles O55: the second PROCESS goes on from the state where the first one's bytes led, with another stream, other
draws and one more response around it. -/
theorem processIsInvariantUnderSplitting : Obligations.ProcessIsInvariantUnderSplitting := by
  unfold Obligations.ProcessIsInvariantUnderSplitting
  intro s bs cs rest ts p q r v w x hrx
  have hwhole : State.Receives { s with takes := (bs ++ cs).length :: ts } (bs ++ cs) rest ts := ⟨hrx, rfl⟩
  have hfirst : State.Receives { s with takes := bs.length :: cs.length :: ts } bs (cs ++ rest) (cs.length :: ts) :=
    ⟨hrx.trans (List.append_assoc ..), rfl⟩
  obtain ⟨first, hexec, hsecond, hstart⟩ := exec_process_then q w hfirst
  have hfeed := feed_append_within bs cs (s := State.consume { s with takes := (bs ++ cs).length :: ts }) rfl hstart
  refine ⟨_, first, _, exec_process_of_feed p v hwhole rfl, hexec, exec_process_of_feed r x hsecond rfl, ?_⟩
  rw [hfeed, hwhole.consume_eq, hsecond.consume_eq]
  exact ⟨rfl, rfl, feed_rx (bs ++ cs) _, rfl, rfl, feed_rx (bs ++ cs) _⟩

end Sys2Proof.Machine

/-! Proofs: hardware reset, and the constraints an instance is built under (70_reset_and_hazards.md R260, R261,
R264). -/

namespace Sys2Proof.Machine

/-! ## Building an instance -/

/-- An instance is outside the spec when one of its three parameters is above its bound (R264). -/
theorem Params.not_valid_iff {p : Params} :
    ¬ p.Valid ↔ 190 < p.nodeAddressCfg.toNat ∨ 4096 < p.rxBytes ∨ 4096 < p.txBytes := by
  simp only [Params.Valid, not_and_or, not_le, Config.MAX_ADDRESS, Config.MAX_DEPTH]

theorem State.build_of_valid {p : Params} (h : p.Valid) : State.build p = .next (State.resetFor p) := if_pos h

theorem State.build_of_not_valid {p : Params} (h : ¬ p.Valid) : State.build p = .refused .instanceOutsideSpec :=
  if_neg h

/-! ## A reset as the next input -/

theorem step_of_reset {s : State} {rest : List HostInput} (h : s.inputs = .reset :: rest) :
    step s = .next (State.hardwareReset { s with inputs := rest }) := by
  simp only [step, State.nextInput, h]

/-- Hardware reset differs from INIT's initialisation in the trace, which MemRead does not read (R260). -/
theorem State.memRead_hardwareReset {s : State} {i : Nat} (b : Buf) (hi : i < s.bufLen b) :
    s.hardwareReset.memRead b i = some 0x00#8 :=
  State.memRead_initialise s.params.nodeAddressCfg b hi

/-- Hardware reset and INIT of the configured address write the whole core tuple, so it does not matter from which
states they start (R261). -/
theorem State.hardwareReset_core_eq (s u : State) :
    s.hardwareReset.core = (u.initialise s.params.nodeAddressCfg).core := rfl

/-! ## The obligations -/

/-- Settles O17: outside the constraints means above one of the three bounds. -/
theorem instanceIsBuiltExactlyWithinTheConstraints : Obligations.InstanceIsBuiltExactlyWithinTheConstraints :=
  fun _ => ⟨State.build_of_valid, fun h => State.build_of_not_valid (Params.not_valid_iff.mpr h)⟩

/-- Settles O18: the step of a reset is hardware reset of the state with the input taken. -/
theorem hardwareResetLeavesTheResetState : Obligations.HardwareResetLeavesTheResetState := by
  unfold Obligations.HardwareResetLeavesTheResetState
  intro s rest hin
  exact ⟨_, step_of_reset hin, rfl, rfl, rfl, fun _ => State.memRead_hardwareReset .rb,
    fun _ => State.memRead_hardwareReset .tb, rfl, rfl, rfl, rfl, rfl⟩

/-- Settles O19: both initialise the core with the configured address, which in a valid instance INIT accepts. -/
theorem resetAgreesWithInit : Obligations.ResetAgreesWithInit := by
  unfold Obligations.ResetAgreesWithInit
  intro s u rest pos hin _ hvalid
  obtain ⟨haddr, -⟩ := hvalid
  exact ⟨_, _, step_of_reset hin, exec_init_of_le pos haddr, State.hardwareReset_core_eq { s with inputs := rest } u,
    rfl, rfl⟩

end Sys2Proof.Machine

/-! Proofs: request words and decoder keys decoded and encoded, and the first row of the opcode table each of them
matches (30_encoding.md R91 to R101). -/

namespace Sys2Proof

/-! ## Request words -/

theorem reqWord_of_op {w : ReqWord} {op : Nibble} (hrsv : rsvField w = 0#4) (hop : (opField w).toNat = op.toNat) :
    reqWord op 0#4 (posField w) (valField w) = w := by
  rw [← BitVec.eq_of_toNat_eq hop, ← hrsv]
  exact reqWord_fields w

theorem encode_decodeHost (w : ReqWord) : encode (decodeHost w) = .host w := by
  fun_cases decodeHost w
  case case9 | case10 => rfl
  all_goals next hrsv hop => exact congrArg Code.host (reqWord_of_op hrsv hop)

/-- A word is decoded to ILLEGAL only where it spells no operation (R96). -/
theorem decodeHost_wellFormed (w : ReqWord) : (decodeHost w).wellFormed = true := by
  fun_cases decodeHost w
  case case9 =>
    have hop : opField w = 0#4 ∨ 9 ≤ (opField w).toNat := by
      simp only [imp_false] at *
      rw [← BitVec.toNat_inj, BitVec.toNat_ofNat]
      omega
    exact decide_eq_true (.inr hop)
  case case10 hrsv => exact decide_eq_true (.inl hrsv)
  all_goals rfl

theorem decodeHost_selectedIn (c : RowContext) (w : ReqWord) : (decodeHost w).selectedIn c = true := by
  fun_cases decodeHost w <;> rfl

/-- The word of a well-formed request decodes to it: an operation's by its fields, an ILLEGAL one because it spells no
operation. -/
theorem decodeHost_of_encode_eq_host {i : Instr} {w : ReqWord} (hwf : i.wellFormed = true) (hw : encode i = .host w) :
    decodeHost w = i := by
  cases i with
  | init | setAddress | process | getBit | getByte | setBit | setByte | transmit =>
    cases hw
    simp [decodeHost]
  | illegal =>
    cases hw
    exact decodeHost_of_isIllegalWord (of_decide_eq_true hwf)
  | _ => cases hw

/-! ## Keys -/

/-- A key decodes only where its code is a state's, and then to the row that the state and the key's byte select. -/
theorem decodeKey_eq_ok {c : RowContext} {k : Key} {i : Instr} (h : decodeKey c k = .ok i) :
    ∃ (st : DecState) (b : Byte), k = keyOf st.code b ∧ i = classify c st b := by
  simp only [decodeKey] at h
  split at h <;> cases h
  next st hst => exact ⟨st, keyByte k, by rw [DecState.code_of_ofCode _ _ hst, keyOf_fields], rfl⟩

theorem decodeKey_eq_error {c : RowContext} {k : Key} {e : DecodeError} (h : decodeKey c k = .error e) :
    DecState.ofCode (keyCode k) = none := by
  simp only [decodeKey] at h
  split at h <;> cases h
  assumption

/-! ## The opcode table -/

theorem reqWord_eq_iff {op rsv : Nibble} {pos : Pos} {val : Byte} {w : ReqWord} :
    reqWord op rsv pos val = w ↔ op = opField w ∧ rsv = rsvField w ∧ pos = posField w ∧ val = valField w := by
  constructor
  · rintro rfl
    simp
  · rintro ⟨rfl, rfl, rfl, rfl⟩
    exact reqWord_fields w

/-- An operation's row fixes the word's code and its reserved bits (R91, R92). -/
theorem HostRow.hits_operation (m : String) (pat : ReqWord) (op rsv : Nibble) (pos : Pos) (val : Byte) :
    (HostRow.mk m pat 0xFF000000#32).hits (reqWord op rsv pos val) =
      decide (op.toNat = (opField pat).toNat ∧ rsv = rsvField pat ∧ 0#16 = posField pat ∧ 0#8 = valField pat) := by
  simp only [HostRow.hits, reqWord_and_mask, opField_reqWord, rsvField_reqWord, reqWord_eq_iff, BitVec.toNat_inj]

/-- ILLEGAL's row fixes no bit. -/
theorem HostRow.hits_illegal (m : String) (w : ReqWord) : (HostRow.mk m 0#32 0#32).hits w = true := by
  simp [HostRow.hits]

/-- The first row that matches a word is that of the operation it spells: in each branch of `decodeHost` the rows
before it have another code, or the word has a reserved bit set. -/
theorem tableRow_reqWord (c : RowContext) (op rsv : Nibble) (pos : Pos) (val : Byte) :
    tableRow c (.host (reqWord op rsv pos val)) = some (decodeHost (reqWord op rsv pos val)).mnemonic := by
  simp only [tableRow, hostTable, List.find?_cons, HostRow.hits_operation, HostRow.hits_illegal]
  simp only [opField, rsvField, posField, valField]
  fun_cases decodeHost (reqWord op rsv pos val) <;> simp_all [Instr.mnemonic]

theorem tableRow_host (c : RowContext) (w : ReqWord) : tableRow c (.host w) = some (decodeHost w).mnemonic := by
  rw [← reqWord_fields w]
  exact tableRow_reqWord c _ _ _ _

theorem DecState.ne_of_ofCode_eq_none :
    ∀ {code : Nibble}, DecState.ofCode code = none → ∀ n < 11, code ≠ BitVec.ofNat 4 n := by
  decide

/-- A key of no state matches no row, since every row's pattern holds a state's code (R101). -/
theorem tableRow_key_of_no_state (c : RowContext) {k : Key} (h : DecState.ofCode (keyCode k) = none) :
    tableRow c (.key k) = none := by
  have hcode := DecState.ne_of_ofCode_eq_none h
  rw [← keyOf_fields k]
  generalize keyCode k = code at hcode
  simp only [tableRow, keyTable, List.cons_append, List.nil_append, List.find?_cons, KeyRow.hits_address]
  simp only [KeyRow.hits_whole, KeyRow.hits_code, keyCode, keyByte]
  simp [hcode]

/-! ## The obligations -/

/-- Settles O1: a request's word is read back field by field, and a row's key selects the row. -/
theorem decodeOfEncodeIsTheInstruction : Obligations.DecodeOfEncodeIsTheInstruction := by
  unfold Obligations.DecodeOfEncodeIsTheInstruction
  intro c i hwf hsel
  cases hcode : encode i with
  | host w => exact congrArg Except.ok (decodeHost_of_encode_eq_host hwf hcode)
  | key k => exact decode_of_encode_eq_key hwf hsel hcode

/-- Settles O2: every word is its operation's, and a key that decodes is that of a state and a byte. -/
theorem encodeOfDecodeIsTheCode : Obligations.EncodeOfDecodeIsTheCode := by
  unfold Obligations.EncodeOfDecodeIsTheCode
  intro c k i h
  cases k with
  | host w =>
    cases h
    exact ⟨encode_decodeHost w, decodeHost_wellFormed w, decodeHost_selectedIn c w⟩
  | key k =>
    obtain ⟨st, b, rfl, rfl⟩ := decodeKey_eq_ok h
    exact ⟨encode_classify c st b, classify_wellFormed c st b, classify_selectedIn c st b⟩

/-- Settles O4: a word decodes as its first row says, and so does the key of a state; any other key matches none. -/
theorem decodeFollowsTheOpcodeTable : Obligations.DecodeFollowsTheOpcodeTable := by
  unfold Obligations.DecodeFollowsTheOpcodeTable
  intro c k
  cases k with
  | host w => exact tableRow_host c w
  | key k =>
    cases h : decodeKey c k with
    | ok i =>
      obtain ⟨st, b, rfl, rfl⟩ := decodeKey_eq_ok h
      simp only [decode, h]
      exact tableRow_keyOf c st b
    | error e =>
      simp only [decode, h]
      exact tableRow_key_of_no_state c (decodeKey_eq_error h)

/-- Settles O5, by evaluation of `decodeHost` and `decode` on each of the words and keys. -/
theorem wordsWrittenOutDecodeAsListed : Obligations.WordsWrittenOutDecodeAsListed := by
  unfold Obligations.WordsWrittenOutDecodeAsListed
  decide

end Sys2Proof

namespace Sys2Proof.Machine

/-- Settles O7: the byte index drops the three low bits, the bit index keeps them, and the mask is that one bit. -/
theorem bitPositionSplitsIntoByteAndBit : Obligations.BitPositionSplitsIntoByteAndBit := by
  unfold Obligations.BitPositionSplitsIntoByteAndBit
  intro pos
  refine ⟨?_, ?_, fun k hk => bitMask_getLsbD hk _⟩
  · rw [byteIndex, BitVec.extractLsb'_toNat, Nat.shiftRight_eq_div_pow]
    omega
  · rw [bitIndex, BitVec.extractLsb'_toNat, Nat.shiftRight_zero]
end Sys2Proof.Machine

/-! Proofs: what a step adds to the output trace (10_state.md R29, 42_encoder.md R152, R157). -/

namespace Sys2Proof.Machine

/-! ## Sequences of whole transmissions -/

theorem Transmissions.append {evs evs' : List TxEvent} (h : Transmissions evs) (h' : Transmissions evs') :
    Transmissions (evs ++ evs') := by
  induction h with
  | none => exact h'
  | more sent rest _ ih =>
    simpa only [List.append_assoc, List.cons_append] using Transmissions.more sent _ ih

theorem transmissions_transmission (sent : List Byte) : Transmissions (transmission sent) :=
  .more sent [] .none

/-- `t` has the trace of `s` with whole transmissions added at its end. -/
def State.Transmits (s t : State) : Prop := ∃ evs, t.trace = s.trace ++ evs ∧ Transmissions evs

theorem State.transmits_of_trace_eq {s t : State} (h : t.trace = s.trace) : s.Transmits t :=
  ⟨[], h.trans (List.append_nil _).symm, .none⟩

theorem State.Transmits.trans {s t u : State} (h : s.Transmits t) (h' : t.Transmits u) : s.Transmits u := by
  obtain ⟨evs, ht, hevs⟩ := h
  obtain ⟨evs', hu, hevs'⟩ := h'
  exact ⟨evs ++ evs', by rw [hu, ht, List.append_assoc], hevs.append hevs'⟩

/-! ## Every operation but reset -/

theorem transmits_encoderRun (s : State) : s.Transmits (encoderRun s) :=
  ⟨_, encoderRun_trace s, transmissions_transmission _⟩

theorem transmits_decoderStep (b : Byte) (s : State) : s.Transmits (decoderStep b s) := by
  rcases decoderStep_cases b s with ⟨d, heq⟩ | ⟨-, -, heq⟩ | ⟨-, -, heq⟩ <;> rw [heq]
  · exact State.transmits_of_trace_eq rfl
  · exact State.transmits_of_trace_eq rfl
  · exact transmits_encoderRun s

theorem transmits_feed (bs : List Byte) (s : State) : s.Transmits (feed bs s).1 :=
  feed_induction (fun b _ h => h.trans (transmits_decoderStep b _)) bs s (State.transmits_of_trace_eq rfl)

theorem HostEffect.transmits {s u : State} (h : HostEffect s u) : s.Transmits u := by
  cases h with
  | unchanged | initialised | addressed | wroteTb => exact State.transmits_of_trace_eq rfl
  | processed => exact transmits_feed _ s.consume
  | encoded => exact transmits_encoderRun s

/-! ## The obligation -/

/-- Settles O59: a step idles or has one effect of a host operation, which adds one transmission for a TRANSMIT and for
each poll of a PROCESS. -/
theorem traceGrowsByWholeTransmissions : Obligations.TraceGrowsByWholeTransmissions := by
  unfold Obligations.TraceGrowsByWholeTransmissions
  intro s t hreset h
  rcases step_cases h with ⟨-, rfl⟩ | ⟨rest, hin, -⟩ | ⟨w, rest, -, u, r, heffect, rfl⟩
  · exact State.transmits_of_trace_eq rfl
  · exact absurd hin (hreset rest)
  · exact heffect.transmits

end Sys2Proof.Machine

/-! Proofs: every request answers a next state with one response, and every step answers a next state (00_scope.md R9,
R10, 30_encoding.md R94). -/

namespace Sys2Proof.Machine

/-! ## A step by its next input -/

theorem step_of_no_input {s : State} (h : s.inputs = []) : step s = .next s := by
  simp only [step, State.nextInput, h]

theorem step_of_request {s : State} {w : ReqWord} {rest : List HostInput} (h : s.inputs = .request w :: rest) :
    step s = exec (decodeHost w) { s with inputs := rest } := by
  simp only [step, State.nextInput, h]

/-! ## The response to a request -/

/-- What a response to the request `i` may hold: data of its own only for a successful read, and bytes only for
PROCESS (R94). -/
def Response.Fits (r : Response) (i : Instr) : Prop :=
  (r.data ≠ 0x00#8 → r.status = .ok ∧ ((∃ p v, i = .getBit p v) ∨ ∃ p v, i = .getByte p v)) ∧
  (r.bytes ≠ [] → ∃ p v, i = .process p v)

theorem Response.fits_of_status (e : Status) (i : Instr) : Response.Fits ⟨e, 0x00#8, []⟩ i :=
  ⟨fun h => absurd rfl h, fun h => absurd rfl h⟩

theorem fits_readResponse {i : Instr} (hread : (∃ p v, i = .getBit p v) ∨ ∃ p v, i = .getByte p v)
    (data : Byte → Byte) (o : Option Byte) : (readResponse data o).Fits i := by
  cases o with
  | none => exact Response.fits_of_status _ i
  | some b => exact ⟨fun _ => ⟨rfl, hread⟩, fun h => absurd rfl h⟩

/-- `i` answers a next state, with one response added that fits it. -/
def Answers (i : Instr) (s : State) : Prop :=
  ∃ t r, exec i s = .next t ∧ t.responses = s.responses ++ [r] ∧ r.Fits i

section

variable {i : Instr} {s : State}

theorem answers_of_fail {e : Status} (h : exec i s = .next (s.fail e)) : Answers i s :=
  ⟨_, _, h, rfl, Response.fits_of_status e i⟩

theorem answers_of_done {u : State} (h : exec i s = .next (u.done 0x00#8)) (hu : u.responses = s.responses) :
    Answers i s :=
  ⟨_, _, h, congrArg (· ++ _) hu, Response.fits_of_status .ok i⟩

theorem answers_of_set {pos : Pos} {val : Byte} (hset : i = .setBit pos val ∨ i = .setByte pos val) :
    Answers i s := by
  rcases exec_set_cases val s hset with ⟨e, he⟩ | ⟨m, hm⟩
  · exact answers_of_fail he
  · exact answers_of_done hm rfl

/-- Along the operations that a request word can spell: each fails, completes or, for a read, a PROCESS and a TRANSMIT,
responds in its own way (R94). -/
theorem answers_of_encode_eq_host {w : ReqWord} (hw : encode i = .host w) : Answers i s := by
  cases i with
  | init pos val =>
    rcases Nat.lt_or_ge 190 val.toNat with hval | hval
    · exact answers_of_fail (exec_init_of_gt pos hval)
    · exact answers_of_done (exec_init_of_le pos hval) rfl
  | setAddress pos val =>
    rcases Nat.lt_or_ge 190 val.toNat with hval | hval
    · exact answers_of_fail (exec_setAddress_of_gt pos hval)
    · exact answers_of_done (exec_setAddress_of_le pos hval) rfl
  | process pos val =>
    exact ⟨_, _, rfl, congrArg (· ++ _) (feed_responses _ s.consume), fun h => absurd rfl h, fun _ => ⟨pos, val, rfl⟩⟩
  | getBit pos val => exact ⟨_, _, execGetBit_eq pos val, rfl, fits_readResponse (.inl ⟨pos, val, rfl⟩) _ _⟩
  | getByte pos val => exact ⟨_, _, execGetByte_eq pos val, rfl, fits_readResponse (.inr ⟨pos, val, rfl⟩) _ _⟩
  | setBit => exact answers_of_set (.inl rfl)
  | setByte => exact answers_of_set (.inr rfl)
  | transmit => exact ⟨_, _, rfl, congrArg (· ++ _) (encoderRun_responses s), Response.fits_of_status _ _⟩
  | illegal => exact answers_of_fail rfl
  | _ => cases hw

/-- A decoder row's meaning is total (R231). -/
theorem exec_next_of_encode_eq_key {k : Key} (hk : encode i = .key k) : ∃ t, exec i s = .next t := by
  cases i with
  | init | setAddress | process | getBit | getByte | setBit | setByte | transmit | illegal => cases hk
  | _ => exact ⟨_, rfl⟩

end

theorem exec_answers_next (i : Instr) (s : State) : ∃ t, exec i s = .next t := by
  cases hcode : encode i with
  | host w =>
    obtain ⟨t, -, hexec, -⟩ := answers_of_encode_eq_host (s := s) hcode
    exact ⟨t, hexec⟩
  | key k => exact exec_next_of_encode_eq_key hcode

/-! ## The obligations -/

/-- Settles O8: `step` by the head of the queue; a word put first is that head. -/
theorem stepRunsTheDecodedInstruction : Obligations.StepRunsTheDecodedInstruction := by
  unfold Obligations.StepRunsTheDecodedInstruction
  exact ⟨fun _ _ _ => step_of_request, fun s w => step_of_request (State.askFirst_inputs s w),
    fun _ => step_of_no_input⟩

/-- Settles O11: no arm of `exec` faults or refuses, and a step without a request idles or resets. -/
theorem everyInstructionAndStepAnswersANextState : Obligations.EveryInstructionAndStepAnswersANextState := by
  unfold Obligations.EveryInstructionAndStepAnswersANextState
  refine ⟨exec_answers_next, fun s => ?_⟩
  cases hin : s.inputs with
  | nil => exact ⟨s, step_of_no_input hin⟩
  | cons i rest =>
    cases i with
    | request w =>
      rw [step_of_request hin]
      exact exec_answers_next _ _
    | reset => exact ⟨_, step_of_reset hin⟩

/-- Settles O60: the word decodes to a request, which answers with one response that fits it. -/
theorem everyRequestReturnsOneResponse : Obligations.EveryRequestReturnsOneResponse := by
  unfold Obligations.EveryRequestReturnsOneResponse
  intro s t w rest hin hstep
  obtain ⟨t', r, hexec, hr, hfits⟩ := answers_of_encode_eq_host (s := { s with inputs := rest }) (encode_decodeHost w)
  rw [step_of_request hin, hexec] at hstep
  cases hstep
  exact ⟨r, hr, hfits⟩

/-- Settles O34: no meaning reads the fields it ignores, so the two sides unfold to one term. -/
theorem unusedFieldsAreIgnored : Obligations.UnusedFieldsAreIgnored := by
  unfold Obligations.UnusedFieldsAreIgnored
  exact fun _ _ _ _ _ => ⟨rfl, rfl, rfl, rfl, rfl, rfl⟩

/-- Settles O14: right after reset the core is the reset core, and the parameters of `State.reset` are valid. -/
theorem resetMeetsTheInvariant : Obligations.ResetMeetsTheInvariant := by
  unfold Obligations.ResetMeetsTheInvariant
  have hreset : ∀ p : Params, p.Valid → (State.resetFor p).Inv := fun p hv => State.inv_of_reset_core hv rfl rfl
  exact ⟨hreset, hreset Config.resetParams (by decide)⟩

end Sys2Proof.Machine

/-! Proofs: the decoder's command rows, and PROCESS as the decoder steps of the bytes it takes (43_decoder.md R170, R179
to R181, 44_host_operations.md R214). -/

namespace Sys2Proof.Machine

/-! ## The decoder steps of the bytes taken -/

theorem feed_fst_eq_foldl (bs : List Byte) (s : State) :
    (feed bs s).1 = bs.foldl (fun u b => decoderStep b u) s := by
  induction bs generalizing s with
  | nil => rfl
  | cons b bs ih => exact ih _

theorem TxStatus.failed_eq_true_iff {x : TxStatus} : x.failed = true ↔ x = .txFail := by
  cases x <;> simp [TxStatus.failed]

/-- A failure does not stop the loop and is not forgotten (R214). -/
theorem feed_snd_iff {bs : List Byte} {s : State} : (feed bs s).2 = true ↔
    ∃ n, n < bs.length ∧ ((bs.take (n + 1)).foldl (fun u b => decoderStep b u) s).txs = .txFail := by
  induction bs generalizing s with
  | nil => simp
  | cons b bs ih =>
    rw [feed_cons_snd, Bool.or_eq_true, TxStatus.failed_eq_true_iff, ih]
    constructor
    · rintro (hb | ⟨n, hn, hfail⟩)
      · exact ⟨0, Nat.zero_lt_succ _, hb⟩
      · exact ⟨n + 1, Nat.succ_lt_succ hn, hfail⟩
    · rintro ⟨n, hn, hfail⟩
      cases n with
      | zero => exact .inl hfail
      | succ n => exact .inr ⟨n, Nat.lt_of_succ_lt_succ hn, hfail⟩

theorem processStatus_failed (x : TxStatus) : processStatus x.failed = if x = .txFail then .txFail else .ok := by
  cases x <;> rfl

theorem processStatus_eq_txFail_iff {failed : Bool} : processStatus failed = .txFail ↔ failed = true := by
  cases failed <;> simp [processStatus]

theorem processStatus_eq_ok_or_txFail (failed : Bool) :
    processStatus failed = .ok ∨ processStatus failed = .txFail := by
  cases failed
  · exact .inl rfl
  · exact .inr rfl

/-- A draw within the stream is the number of bytes taken (log 4). -/
theorem State.taken_length {s : State} {k : Nat} {ts : List Nat} (htakes : s.takes = k :: ts)
    (hk : k ≤ s.rx.length) : (s.rx.take s.available).length = k := by
  have hlen : (s.rx.take k).length = k := by rw [List.length_take, Nat.min_eq_left hk]
  have hreceives : s.Receives (s.rx.take k) (s.rx.drop k) ts :=
    ⟨(List.take_append_drop k s.rx).symm, htakes.trans (by rw [hlen])⟩
  rw [hreceives.taken_eq, hlen]

/-- PROCESS answers the decoder's state with its response added to the record, which no decoder step writes (R94). -/
theorem exec_process_eq (s : State) (pos : Pos) (val : Byte) :
    exec (.process pos val) s = .next { (s.rx.take s.available).foldl (fun u b => decoderStep b u) s.consume with
      responses := s.responses ++
        [⟨processStatus (feed (s.rx.take s.available) s.consume).2, 0x00#8, s.rx.take s.available⟩] } := by
  rw [← feed_fst_eq_foldl, exec, execProcess, State.respond, feed_responses]
  rfl

/-! ## The obligations -/

/-- Settles O22: the bytes taken are the stream's first ones, as many as the draw or the stream's length allows. -/
theorem processFeedsTheAvailableBytesInOrder : Obligations.ProcessFeedsTheAvailableBytesInOrder := by
  unfold Obligations.ProcessFeedsTheAvailableBytesInOrder
  intro s pos val
  exact ⟨by simp [decodeHost], s.rx.take s.available, s.rx.drop s.available, _, _,
    (List.take_append_drop _ _).symm, List.length_take, fun _ _ => State.taken_length, exec_process_eq s pos val, rfl,
    processStatus_eq_txFail_iff.trans feed_snd_iff, processStatus_eq_ok_or_txFail _⟩

/-- Settles O9: taking the byte changes neither the decoder's state nor what the rows' conditions read. -/
theorem processOfOneByteRunsTheDecodedRow : Obligations.ProcessOfOneByteRunsTheDecodedRow := by
  unfold Obligations.ProcessOfOneByteRunsTheDecodedRow
  intro s pos val b rest ts h
  have hrow : exec (classify s.rowContext s.st b) s.consume = .next (decoderStep b s.consume) :=
    exec_classify s.consume b
  have hfeed : feed [b] s.consume = (decoderStep b s.consume, (decoderStep b s.consume).txs.failed) :=
    Prod.ext rfl (Bool.or_false _)
  refine ⟨classify s.rowContext s.st b, decoderStep b s.consume, decode_keyOf _ _ b, h.consume_eq ▸ hrow, ?_⟩
  rw [exec_process_of_feed pos val h hfeed, processStatus_failed]
  rfl

/-- Settles O10, along the branches of the decoder step. -/
theorem decoderStepRunsTheSelectedRow : Obligations.DecoderStepRunsTheSelectedRow := exec_classify

/-- Settles O39: neither row reads or writes anything but the decoder's state. -/
theorem commandRowsChooseTheFrameKind : Obligations.CommandRowsChooseTheFrameKind :=
  fun _ _ hst => ⟨rowRuns_decCmdSet hst, rowRuns_decCmdOther hst⟩

/-- Settles O40: the row leads to Preamble1 whether the sink takes the frame or the write fails after `k` bytes. -/
theorem pollRowRunsTheEncoder : Obligations.PollRowRunsTheEncoder := by
  unfold Obligations.PollRowRunsTheEncoder
  intro s hst
  refine ⟨_, rowRuns_decCmdPoll hst rfl, fun hok => ?_, fun k hfail => ?_⟩
  · rw [hok]
    rfl
  · rw [hfail]
    rfl

end Sys2Proof.Machine

/-! Proofs: the words of SET_BYTES, run one after another (30_encoding.md R104). -/

namespace Sys2Proof.Machine

theorem core_run_succ {s t : State} (h : step s = .next t) (k : Nat) :
    Sys2Proof.core.run (k + 1) s = Sys2Proof.core.run k t := by
  have hstep : Sys2Proof.core.step s = .next t := h
  simp only [Host.Core.run]
  rw [hstep]

/-- The state after a SET_BYTE word at the head of the queue has run within TB. -/
def State.afterSetByte (s : State) (p : Pos) (v : Byte) (rest : List HostInput) : State :=
  ({ s with inputs := rest }.setBuf .tb (s.tb.put p.toNat v)).done 0x00#8

theorem step_of_setByte_word {s : State} {p : Pos} {v : Byte} {rest : List HostInput}
    (hin : s.inputs = .request (reqWord 0x7#4 0#4 p v) :: rest) (hp : p.toNat < s.params.txBytes) :
    step s = .next (s.afterSetByte p v rest) := by
  have hdecode : decodeHost (reqWord 0x7#4 0#4 p v) = .setByte p v := by simp [decodeHost]
  rw [step_of_request hin, hdecode]
  exact exec_setByte_of_lt v hp

theorem State.memRead_afterSetByte {s : State} (hwf : s.tb.wf) {p : Pos} (hp : p.toNat < s.params.txBytes) (v : Byte)
    (rest : List HostInput) (j : Nat) :
    (s.afterSetByte p v rest).memRead .tb j = if j = p.toNat then some v else s.memRead .tb j := by
  split
  · next hj =>
    subst hj
    exact State.memRead_put_tb_same hwf v hp
  · next hj => exact State.memRead_put_tb_ne hwf v hj

/-- `t` is `s` with the queue run down to `rest` and with `vs` in TB from index `p` on, the responses apart (R104). -/
def State.HoldsFrom (s t : State) (p : Nat) (vs : List Byte) (rest : List HostInput) : Prop :=
  t = { s with tb := t.tb, responses := t.responses, inputs := rest } ∧
  (∀ i, i < vs.length → t.memRead .tb (p + i) = vs[i]?) ∧
  ∀ j, (j < p ∨ p + vs.length ≤ j) → t.memRead .tb j = s.memRead .tb j

theorem State.holdsFrom_nil (s : State) (p : Nat) : s.HoldsFrom s p [] s.inputs :=
  ⟨rfl, fun _ hi => absurd hi (Nat.not_lt_zero _), fun _ _ => rfl⟩

/-- One byte written at `p`, and then the others from `p + 1` on. -/
theorem State.HoldsFrom.cons {s t : State} {p : Pos} {v : Byte} {vs : List Byte} {rest rest' : List HostInput}
    (hwf : s.tb.wf) (hp : p.toNat < s.params.txBytes)
    (h : (s.afterSetByte p v rest').HoldsFrom t (p.toNat + 1) vs rest) : s.HoldsFrom t p.toNat (v :: vs) rest := by
  obtain ⟨heq, hvs, hother⟩ := h
  have hkeep : ∀ j, j < p.toNat + 1 ∨ p.toNat + 1 + vs.length ≤ j →
      t.memRead .tb j = if j = p.toNat then some v else s.memRead .tb j := fun j hj =>
    (hother j hj).trans (State.memRead_afterSetByte hwf hp v rest' j)
  refine ⟨heq, fun i hi => ?_, fun j hj => ?_⟩
  · cases i with
    | zero => exact (hkeep p.toNat (.inl (Nat.lt_succ_self _))).trans (if_pos rfl)
    | succ i =>
      have hindex : p.toNat + (i + 1) = p.toNat + 1 + i := by omega
      rw [hindex, List.getElem?_cons_succ]
      exact hvs i (Nat.lt_of_succ_lt_succ hi)
  · rw [List.length_cons] at hj
    exact (hkeep j (by omega)).trans (if_neg (by omega))

/-- The expansion runs word by word; positions below the greatest depth do not wrap (log 16). -/
theorem run_setBytesWords (vs : List Byte) {s : State} {p : Pos} {rest : List HostInput} (hwf : s.tb.wf)
    (hdepth : s.params.txBytes ≤ 4096) (hp : p.toNat + vs.length ≤ s.params.txBytes)
    (hin : s.inputs = (setBytesWords p vs).map HostInput.request ++ rest) :
    ∃ t, Sys2Proof.core.run vs.length s = .next t ∧ s.HoldsFrom t p.toNat vs rest := by
  induction vs generalizing s p with
  | nil =>
    obtain rfl : s.inputs = rest := hin
    exact ⟨s, rfl, s.holdsFrom_nil _⟩
  | cons v vs ih =>
    rw [List.length_cons] at hp
    have hlt : p.toNat < s.params.txBytes := by omega
    have hsucc : (p + 1#16).toNat = p.toNat + 1 := by
      rw [BitVec.toNat_add, BitVec.toNat_ofNat]
      omega
    have hrest : (p + 1#16).toNat + vs.length ≤ s.params.txBytes := by omega
    obtain ⟨t, hrun, hholds⟩ := ih (s := s.afterSetByte p v _) (Memory.put_wf _ hwf _ _) hdepth hrest rfl
    refine ⟨t, ?_, ?_⟩
    · exact (core_run_succ (step_of_setByte_word hin hlt) vs.length).trans hrun
    · rw [hsucc] at hholds
      exact hholds.cons hwf hlt

/-- Settles O35, by induction on the values: valid parameters put the depth of TB below 2^16, so no position wraps. -/
theorem setBytesWritesSuccessiveBytes : Obligations.SetBytesWritesSuccessiveBytes := by
  unfold Obligations.SetBytesWritesSuccessiveBytes
  intro s p vs rest hinv hp hin
  obtain ⟨⟨-, -, hdepth⟩, -, -, -, -, -, hwf, -⟩ := hinv
  exact run_setBytesWords vs hwf hdepth hp hin

end Sys2Proof.Machine
